-- ==== Sys2Proof/Word.lean ====
section
/-! DEFINITION. The unit widths of the block (20_memory.md R71): a 32-bit command or response word and an 8-bit byte. -/

namespace Sys2Proof

/-- A command word in, or a response word out (30_encoding.md R90, 40_dispatch.md R125). -/
abbrev Word := BitVec 32

/-- One container byte (10_state.md R44); also an opcode byte and an error code. -/
abbrev Byte := BitVec 8

end Sys2Proof
end

