-- ==== Sys2Proof/Syntax.lean ====
section
/-! DEFINITION. The commands (30_encoding.md R92), one constructor of `Instr` per row of the opcode table; the names of the
opcodes and operand formats; the two ways a word is malformed (R94); and the assembler's lines and pseudo-commands
(R96, R97). -/

namespace Sys2Proof

/-- A 24-bit RGB colour by its components, each unsigned (41_quantizer.md R141). -/
structure Rgb where
  r : Byte
  g : Byte
  b : Byte
  deriving DecidableEq, Repr, Inhabited

/-- One command, its operand fields at the widths of 30_encoding.md R91 to R93. Every term is well-formed: a field holds
exactly the values its bits admit, and whether such a value is legal is the command's own check (R93). -/
inductive Instr where
  /-- R260 -/
  | nop
  /-- R261 -/
  | setW (imm16 : BitVec 16)
  /-- R262 -/
  | setH (imm16 : BitVec 16)
  /-- R147 -/
  | imgBegin (colors : BitVec 24)
  /-- R148 -/
  | pixel (r g b : Byte)
  /-- R216 -/
  | imgEnd
  /-- R228 -/
  | fontBegin (bpp : BitVec 24)
  /-- R229 -/
  | glyphBegin (code : BitVec 24)
  /-- R230 -/
  | sample (v : BitVec 24)
  /-- R231 -/
  | fontEnd
  /-- R195 -/
  | xcode (r g b : Byte)
  /-- R263 -/
  | query
  /-- R264 -/
  | abort
  deriving DecidableEq, Repr

/-- The thirteen assigned opcodes by mnemonic (30_encoding.md R92). -/
inductive Opcode where
  | nop | setW | setH | imgBegin | pixel | imgEnd | fontBegin | glyphBegin | sample | fontEnd | xcode | query | abort
  deriving DecidableEq, Repr

/-- The operand formats of 30_encoding.md R91. -/
inductive OpFormat where
  /-- bits 23:0 reserved, 0 -/
  | fNone
  /-- bits 23:16 reserved, 0; bits 15:0 the operand -/
  | fU16
  /-- bits 23:0 the operand -/
  | fU24
  deriving DecidableEq, Repr

/-- Why a word is malformed (30_encoding.md R94). -/
inductive Malformed where
  /-- case (a): the opcode byte is none of the thirteen -/
  | unassignedOpcode
  /-- case (b): the opcode is assigned and a reserved bit of its format is 1 -/
  | reservedBits
  deriving DecidableEq, Repr

/-- The opcode of a command. -/
def Instr.opcode : Instr → Opcode
  | .nop => .nop
  | .setW _ => .setW
  | .setH _ => .setH
  | .imgBegin _ => .imgBegin
  | .pixel _ _ _ => .pixel
  | .imgEnd => .imgEnd
  | .fontBegin _ => .fontBegin
  | .glyphBegin _ => .glyphBegin
  | .sample _ => .sample
  | .fontEnd => .fontEnd
  | .xcode _ _ _ => .xcode
  | .query => .query
  | .abort => .abort

/-- An operand as the assembler's text gives it (30_encoding.md R96): nothing, one number (decimal, hexadecimal or a
character literal's code), or a colour as `#RRGGBB` or three numbers. Numbers are as written, so they may not fit. -/
inductive AsmOperand where
  | none
  | num (n : Nat)
  | rgb (r g b : Nat)
  deriving DecidableEq, Repr

/-- One line of assembler text, its text form left aside (30_encoding.md R96; DESIGN CHOICE, log entry 10). -/
inductive AsmLine where
  /-- a mnemonic and its operand -/
  | cmd (op : Opcode) (x : AsmOperand)
  /-- `.word 0xHHHHHHHH` -/
  | word (n : Nat)
  deriving DecidableEq, Repr

/-- The pseudo-commands of 30_encoding.md R97. -/
inductive Pseudo where
  | dim (w h : Nat)
  | image (w h colors : Nat)
  | pixels (ps : List AsmOperand)
  | font (bpp height : Nat)
  | glyph (code width : Nat)
  | samples (vs : List Nat)
  deriving DecidableEq, Repr

end Sys2Proof
end

