-- ==== Sys2Proof/WellFormed.lean ====
section
/-! DEFINITION. Which assembler lines are well-formed (30_encoding.md R96): 'An operand that does not fit its field … is an
assembly error, not a word'. A term of `Instr` needs no check (its fields have the widths of the encoding); whether a WORD
is well-formed (R94) is what `decode` decides. -/

namespace Sys2Proof

/-- The operand form a mnemonic takes fits it: no operand for F_NONE, at most 65535 for F_U16, at most 16777215 for
F_U24, and for the two commands that take a colour also three components of at most 255 (30_encoding.md R96). -/
def operandFits (op : Opcode) (fmt : OpFormat) (x : AsmOperand) : Bool :=
  match fmt, x with
  | .fNone, .none => true
  | .fU16, .num n => decide (n ≤ 65535)
  | .fU24, .num n => decide (n ≤ 16777215)
  | .fU24, .rgb r g b =>
    (op == .pixel || op == .xcode) && decide (r ≤ 255) && decide (g ≤ 255) && decide (b ≤ 255)
  | _, _ => false

/-- The `.word` form holds 32 bits (30_encoding.md R96). -/
def rawWordFits (n : Nat) : Bool := decide (n < 2 ^ 32)

end Sys2Proof
end

