-- ==== Sys2Proof/Decode.lean ====
section
/-! DEFINITION. The encoding of the commands (30_encoding.md R90 to R97): the opcode map, `decode` (total on every word,
refusing by name), the encoder `encode`, the assembler's expansion into words, and the host's `decodeTableWord`. -/

namespace Sys2Proof

/-- The opcode byte of each command (30_encoding.md R92). -/
def Opcode.code : Opcode → Byte
  | .nop => 0x00#8
  | .setW => 0x01#8
  | .setH => 0x02#8
  | .imgBegin => 0x10#8
  | .pixel => 0x11#8
  | .imgEnd => 0x12#8
  | .fontBegin => 0x20#8
  | .glyphBegin => 0x21#8
  | .sample => 0x22#8
  | .fontEnd => 0x23#8
  | .xcode => 0x30#8
  | .query => 0xF0#8
  | .abort => 0xFF#8

/-- The operand format of each command (30_encoding.md R92). -/
def Opcode.format : Opcode → OpFormat
  | .nop | .imgEnd | .fontEnd | .query | .abort => .fNone
  | .setW | .setH => .fU16
  | .imgBegin | .pixel | .fontBegin | .glyphBegin | .sample | .xcode => .fU24

/-- All assigned opcodes, in the order of 30_encoding.md R92. -/
def allOpcodes : List Opcode :=
  [.nop, .setW, .setH, .imgBegin, .pixel, .imgEnd, .fontBegin, .glyphBegin, .sample, .fontEnd, .xcode, .query, .abort]

/-- The bits that must match the table (30_encoding.md R91). -/
def OpFormat.mask : OpFormat → Word
  | .fNone => 0xFFFFFFFF#32
  | .fU16 => 0xFFFF0000#32
  | .fU24 => 0xFF000000#32

/-- A command word: the opcode in bits 31:24 and the operand in bits 23:0 (30_encoding.md R90). -/
def wordOf (opc : Byte) (operand : BitVec 24) : Word := opc ++ operand

/-- `match` of an opcode's row: its byte over zeros (30_encoding.md R91, R92). -/
def Opcode.matchWord (op : Opcode) : Word := wordOf op.code 0#24

/-- Bits 31:24, `OPC` (30_encoding.md R90). -/
def opcodeByte (w : Word) : Byte := w.extractLsb' 24 8

/-- Bits 23:0, `OPERAND` (30_encoding.md R90). -/
def operand24 (w : Word) : BitVec 24 := w.extractLsb' 0 24

/-- Bits 15:0, `imm16` (30_encoding.md R91). -/
def operand16 (w : Word) : BitVec 16 := w.extractLsb' 0 16

/-- Bits 23:16, the `R` of a colour operand (30_encoding.md R93). -/
def operandR (w : Word) : Byte := w.extractLsb' 16 8

/-- Bits 15:8, the `G` of a colour operand (30_encoding.md R93). -/
def operandG (w : Word) : Byte := w.extractLsb' 8 8

/-- Bits 7:0, the `B` of a colour operand (30_encoding.md R93). -/
def operandB (w : Word) : Byte := w.extractLsb' 0 8

/-- The assigned opcode with this byte, if there is one. -/
def opcodeOf (b : Byte) : Option Opcode := allOpcodes.find? (fun op => op.code == b)

/-- The command of an opcode with the operand fields of a word (30_encoding.md R93). -/
def instrOf (op : Opcode) (w : Word) : Instr :=
  match op with
  | .nop => .nop
  | .setW => .setW (operand16 w)
  | .setH => .setH (operand16 w)
  | .imgBegin => .imgBegin (operand24 w)
  | .pixel => .pixel (operandR w) (operandG w) (operandB w)
  | .imgEnd => .imgEnd
  | .fontBegin => .fontBegin (operand24 w)
  | .glyphBegin => .glyphBegin (operand24 w)
  | .sample => .sample (operand24 w)
  | .fontEnd => .fontEnd
  | .xcode => .xcode (operandR w) (operandG w) (operandB w)
  | .query => .query
  | .abort => .abort

/-- The decode checks of 40_dispatch.md R122, in their order: the opcode byte, then `word & mask = match`. -/
def decode (w : Word) : Except Malformed Instr :=
  match opcodeOf (opcodeByte w) with
  | none => .error .unassignedOpcode
  | some op => if w &&& op.format.mask = op.matchWord then .ok (instrOf op w) else .error .reservedBits

/-- A colour as a 24-bit value, red first (30_encoding.md R93, 41_quantizer.md R141). -/
def colorBits (r g b : Byte) : BitVec 24 := r ++ (g ++ b)

/-- A 16-bit operand under eight reserved bits of 0 (30_encoding.md R91). -/
def u16Bits (v : BitVec 16) : BitVec 24 := 0#8 ++ v

/-- Bits 23:0 of a command's word (30_encoding.md R91 to R93). -/
def Instr.operandBits : Instr → BitVec 24
  | .nop => 0#24
  | .setW v => u16Bits v
  | .setH v => u16Bits v
  | .imgBegin c => c
  | .pixel r g b => colorBits r g b
  | .imgEnd => 0#24
  | .fontBegin n => n
  | .glyphBegin c => c
  | .sample v => v
  | .fontEnd => 0#24
  | .xcode r g b => colorBits r g b
  | .query => 0#24
  | .abort => 0#24

/-- The word of a command (30_encoding.md R90 to R93). -/
def encode (i : Instr) : Word := wordOf i.opcode.code i.operandBits

/-- The command word a table row's bits are: `nbits` bits of `w`, every bit above them 0. A command word is one 32-bit
unit with no byte order (20_memory.md R70). -/
def tableWord (nbits w : Nat) : Word := BitVec.ofNat 32 (w % 2 ^ nbits)

/-- The command the decoder reads from a row's word, none where it refuses. -/
def decodeTableWord (nbits w : Nat) : Option Instr :=
  match decode (tableWord nbits w) with
  | .ok i => some i
  | .error _ => none

/-- The operand bits an assembler operand stands for; a colour is written red first (30_encoding.md R93, R96). -/
def AsmOperand.bits : AsmOperand → BitVec 24
  | .none => 0#24
  | .num n => BitVec.ofNat 24 n
  | .rgb r g b => colorBits (BitVec.ofNat 8 r) (BitVec.ofNat 8 g) (BitVec.ofNat 8 b)

/-- A line is well-formed: its operand fits its field (30_encoding.md R96). -/
def AsmLine.wellFormed : AsmLine → Bool
  | .cmd op x => operandFits op op.format x
  | .word n => rawWordFits n

/-- The word of a line, none where it is an assembly error (30_encoding.md R96). -/
def assemble (l : AsmLine) : Option Word :=
  if l.wellFormed then
    some (match l with
      | .cmd op x => wordOf op.code x.bits
      | .word n => BitVec.ofNat 32 n)
  else none

/-- The expansion of a pseudo-command, in order (30_encoding.md R97). PIXELS and SAMPLES with no operand at all, a form R97
does not give, expand to no lines (DESIGN CHOICE, log entry 10). -/
def expandPseudo : Pseudo → List AsmLine
  | .dim w h => [.cmd .setW (.num w), .cmd .setH (.num h)]
  | .image w h c => [.cmd .setW (.num w), .cmd .setH (.num h), .cmd .imgBegin (.num c)]
  | .pixels ps => ps.map (fun p => .cmd .pixel p)
  | .font bpp h => [.cmd .setH (.num h), .cmd .fontBegin (.num bpp)]
  | .glyph code w => [.cmd .setW (.num w), .cmd .glyphBegin (.num code)]
  | .samples vs => vs.map (fun v => .cmd .sample (.num v))

end Sys2Proof
end

