-- ==== Sys2Proof/Config.lean ====
section
/-! DEFINITION. The configuration record of 00_scope.md R5 and the open values. What the spec decides is a value here; what
it leaves OPEN is an opaque constant with no body, so that nothing can be proved of its value beyond its range. -/

namespace Sys2Proof

/-- Which quantization function the block has (00_scope.md R5, 41_quantizer.md R143): a lawful function nothing more is
known of, or the spec's REF_QUANT (R146), the one function the spec names. -/
inductive QuantFn where
  /-- the OPEN function, of which only the laws Q1 to Q3 may be used (R144) -/
  | unnamed
  /-- REF_QUANT (R146) -/
  | ref
  deriving DecidableEq, Repr

/-- `WIDTH_ENTRY_BYTES`, 1 or 2 (00_scope.md R5). -/
inductive WidthEntry where
  | one
  | two
  deriving DecidableEq, Repr

/-- The configuration record of 00_scope.md R5, each field at its legal range (R5, R6). It is fixed when the block is built
(70_reset_and_hazards.md R323). -/
structure Params where
  /-- `QUANT_FN` -/
  quant : QuantFn
  /-- `FONT_MAGIC`, the four bytes in their own order (44_serializer.md R218) -/
  fontMagic : Vector Byte 4
  /-- `MAX_PIXELS`, 0 to 65535·65535 -/
  maxPixels : Fin (65535 * 65535 + 1)
  /-- `MAX_GLYPHS`, 0 to 65535 -/
  maxGlyphs : Fin (65535 + 1)
  /-- `MAX_GLYPH_BITS`, 0 to 2^32 − 1 (R6) -/
  maxGlyphBits : Fin (4294967295 + 1)
  /-- `GLYPH_BYTE_ALIGN` -/
  glyphByteAlign : Bool
  /-- `WIDTH_ENTRY_BYTES` -/
  widthEntry : WidthEntry
  /-- `CMD_FIFO_DEPTH`, unobservable (10_state.md R34) -/
  cmdFifoDepth : PNat
  /-- `OUT_FIFO_DEPTH`, unobservable (10_state.md R34) -/
  outFifoDepth : PNat
  /-- `RSP_FIFO_DEPTH`, unobservable (10_state.md R34) -/
  rspFifoDepth : PNat
  deriving DecidableEq, Repr

/-- OPEN (44_serializer.md R218): the bytes of `FONT_MAGIC`. -/
opaque Config.fontMagic : Vector Byte 4

/-- OPEN (00_scope.md R5): `MAX_PIXELS`. -/
opaque Config.maxPixels : Fin (65535 * 65535 + 1)

/-- OPEN (00_scope.md R5): `MAX_GLYPHS`. -/
opaque Config.maxGlyphs : Fin (65535 + 1)

/-- OPEN (00_scope.md R5, R6): `MAX_GLYPH_BITS`. -/
opaque Config.maxGlyphBits : Fin (4294967295 + 1)

/-- OPEN (10_state.md R34): `CMD_FIFO_DEPTH`. -/
opaque Config.cmdFifoDepth : PNat

/-- OPEN (10_state.md R34): `OUT_FIFO_DEPTH`. -/
opaque Config.outFifoDepth : PNat

/-- OPEN (10_state.md R34): `RSP_FIFO_DEPTH`. -/
opaque Config.rspFifoDepth : PNat

/-- OPEN (41_quantizer.md R143, R144): entry `j` of the palette that the open QUANT_FN gives for width `w`, height `h`,
pixels `px` and colour count `c`. A function of these alone (law Q3; DESIGN CHOICE, log entry 7). -/
opaque Config.quantPalette (w h : Nat) (px : List Rgb) (c : Nat) (j : Nat) : Rgb

/-- OPEN (41_quantizer.md R143, R144): a number whose remainder by `c` is the palette index that the open QUANT_FN gives
pixel `k`. A function of `(w, h, px, c)` and `k` alone (law Q3; DESIGN CHOICE, log entry 7). -/
opaque Config.quantIndex (w h : Nat) (px : List Rgb) (c : Nat) (k : Nat) : Nat

/-- FREE VALUE (10_state.md R47): what element `k` of PIXBUF holds when nothing has written it. No run reads it
(log entry 5). -/
opaque Config.unwrittenPixel (k : Nat) : Rgb

/-- The configuration the block is built with: the OPEN parameters opaque, `GLYPH_BYTE_ALIGN` = false (D18) and
`WIDTH_ENTRY_BYTES` = 2 (D16) as 00_scope.md R5 decides. -/
def Config.build : Params where
  quant := .unnamed
  fontMagic := Config.fontMagic
  maxPixels := Config.maxPixels
  maxGlyphs := Config.maxGlyphs
  maxGlyphBits := Config.maxGlyphBits
  glyphByteAlign := false
  widthEntry := .two
  cmdFifoDepth := Config.cmdFifoDepth
  outFifoDepth := Config.outFifoDepth
  rspFifoDepth := Config.rspFifoDepth

end Sys2Proof
end

