-- ==== Sys2Proof/Machine/State.lean ====
section
/-! DEFINITION. The state of the block (10_state.md, 20_memory.md) as plain data, the ways a step could stop, and the state
after reset (10_state.md R46). -/

namespace Sys2Proof.Machine

/-- `STATE` (10_state.md R20), exactly the five named values: 5, 6 and 7 are never written (93_implementation_defined.md I9). -/
inductive Mode where
  /-- 0: no asset open -/
  | idle
  /-- 1: an image is open and takes pixels -/
  | img
  /-- 2: a font is open and no glyph is taking samples -/
  | font
  /-- 3: a font is open and its last glyph is taking samples -/
  | glyph
  /-- 4: a command failed; every command but NOP, QUERY and ABORT is discarded -/
  | error
  deriving DecidableEq, Repr

/-- The errors of 60_exceptions.md R280, by name. -/
inductive ErrorKind where
  | invalidColorDepth
  | opcode
  | reservedBits
  | sequence
  | pixelCount
  | capacity
  | bpp
  | sampleRange
  | char
  | charOrder
  | sampleCount
  | glyphWidth
  deriving DecidableEq, Repr

/-- What 40_dispatch.md R121 and R123 say of a command in a state. -/
inductive Verdict where
  /-- the command's own rule is performed -/
  | perform
  /-- the word has no effect (R121) -/
  | discard
  /-- the command raises this error (R123) -/
  | illegal (e : ErrorKind)
  deriving DecidableEq, Repr

/-- One record of the glyph table (10_state.md R29). -/
structure Glyph where
  /-- a Unicode scalar value -/
  code : BitVec 21
  /-- the render width -/
  width : BitVec 16
  /-- the sample values received, in order -/
  samples : List Byte
  deriving DecidableEq, Repr

/-- `PIXBUF` (20_memory.md R60, R61): the elements written so far as (pixel ordinal, pixel) pairs. It is the only storage
of the block that is indexed by an address. -/
abbrev Memory := List (Nat × Rgb)

/-- The one form a buffer is held in: ordinals strictly rising. An ordinal that is not listed holds no written value, so no
entry can equal what an unlisted ordinal reads as, and equal buffers are equal lists. -/
abbrev Memory.wf (m : Memory) : Prop := m.Pairwise (fun a b => a.1 < b.1)

/-- What the environment may do (20_memory.md R79), each between two steps of the block. -/
inductive HostEvent where
  /-- the host offers this word and the block takes it (10_state.md R40) -/
  | command (w : Word)
  /-- the consumer is ready for one output byte (10_state.md R41) -/
  | takeByte
  /-- the host is ready for one response word (10_state.md R42) -/
  | takeResponse
  /-- the host asserts `rst_n` = 0 (70_reset_and_hazards.md R320) -/
  | assertReset
  /-- the host releases `rst_n` to 1 (70_reset_and_hazards.md R320) -/
  | releaseReset
  deriving DecidableEq, Repr

/-- Everything the block holds. -/
structure State where
  /-- the configuration the block was built with (00_scope.md R5); no step changes it (70_reset_and_hazards.md R323).
  Held in State: DESIGN CHOICE, log entry 4 -/
  cfg : Params
  /-- `STATE` (R20) -/
  mode : Mode
  /-- `W` (R21) -/
  w : BitVec 16
  /-- `H` (R22) -/
  h : BitVec 16
  /-- `IW` (R23) -/
  iw : BitVec 16
  /-- `IH` (R23) -/
  ih : BitVec 16
  /-- `COLORS` (R24) -/
  colors : BitVec 9
  /-- `BPP` (R24) -/
  bpp : BitVec 4
  /-- `PIX_COUNT` (R25) -/
  pixCount : BitVec 32
  /-- `FBPP` (R28) -/
  fbpp : BitVec 4
  /-- `FH` (R28) -/
  fh : BitVec 16
  /-- `GLYPHS` (R29), with the glyph sample store (20_memory.md R62) -/
  glyphs : List Glyph
  /-- `ERR_CODE` (R31) -/
  errCode : Byte
  /-- `ERR_OP` (R31) -/
  errOp : Byte
  /-- `PIXBUF` (20_memory.md R60); an element nothing has written is a free value (DESIGN CHOICE, log entry 5) -/
  pixbuf : Memory
  /-- `OUT` (R44): each byte with its `last` mark -/
  out : List (Byte × Bool)
  /-- `RSP` (R45) -/
  rsp : List Word
  /-- how many elements of `OUT` the consumer has taken (R41; DESIGN CHOICE, log entry 2) -/
  outTaken : Nat
  /-- how many words of `RSP` the host has taken (R42; DESIGN CHOICE, log entry 2) -/
  rspTaken : Nat
  /-- the position in the command sequence (R27): words taken since reset (DEDUCED, log entry 3) -/
  pos : Nat
  /-- the level of `rst_n` (70_reset_and_hazards.md R320): false while the block is held in reset -/
  rstN : Bool
  /-- what the environment does next, the first event first (20_memory.md R79; DESIGN CHOICE, log entry 1) -/
  inbox : List HostEvent
  deriving DecidableEq, Repr

/-- Why a step could stop with a fault. It has no value: the step is total (40_dispatch.md R120), and every error of the
block is an error entry that leads to a next state (60_exceptions.md R283). Safe: nothing stops. -/
inductive Fault where
  deriving DecidableEq, Repr

/-- Why a step could refuse an instruction. -/
inductive Refusal where
  /-- Raised by no arm of this model: an instruction without a meaning would be refused so, by its mnemonic. Safe. -/
  | notModelled (mnemonic : String)
  deriving DecidableEq, Repr

/-- What the block finds when it looks at its ports: nothing, an event it has dealt with, or a command word it has taken. -/
inductive Fetched where
  | waiting
  | handled (s : State)
  | taken (w : Word) (s : State)
  deriving DecidableEq, Repr

/-- The registers, buffers and ports right after reset (10_state.md R46, R47; 70_reset_and_hazards.md R320), `rst_n`
released, for a block built with configuration `cfg`. -/
def State.resetWith (cfg : Params) : State where
  cfg := cfg
  mode := .idle
  w := 0#16
  h := 0#16
  iw := 0#16
  ih := 0#16
  colors := 0#9
  bpp := 0#4
  pixCount := 0#32
  fbpp := 0#4
  fh := 0#16
  glyphs := []
  errCode := 0#8
  errOp := 0#8
  pixbuf := []
  out := []
  rsp := []
  outTaken := 0
  rspTaken := 0
  pos := 0
  rstN := true
  inbox := []

/-- The machine right after reset (10_state.md R46). -/
def State.reset : State := State.resetWith Config.build

end Sys2Proof.Machine
end

