-- ==== Sys2Proof/Machine/Ops.lean ====
section
/-! DEFINITION. The operations every command shares: the pixel buffer (20_memory.md R60, R61), the two output streams
(10_state.md R44, R45), error entry and its exit (60_exceptions.md R283, R286), and the frame a command runs in
(40_dispatch.md R121 to R124). -/

namespace Sys2Proof.Machine

/-- The 3-bit value of `STATE` (10_state.md R20). -/
def modeCode : Mode → BitVec 3
  | .idle => 0#3
  | .img => 1#3
  | .font => 2#3
  | .glyph => 3#3
  | .error => 4#3

/-- The codes of 60_exceptions.md R280. -/
def errorCode : ErrorKind → Byte
  | .invalidColorDepth => 0x01#8
  | .opcode => 0x02#8
  | .reservedBits => 0x03#8
  | .sequence => 0x04#8
  | .pixelCount => 0x05#8
  | .capacity => 0x06#8
  | .bpp => 0x07#8
  | .sampleRange => 0x08#8
  | .char => 0x09#8
  | .charOrder => 0x0A#8
  | .sampleCount => 0x0B#8
  | .glyphWidth => 0x0C#8

/-- `BufRead(PIXBUF, k)` where it was written; none for an element that nothing has written. -/
def bufRead : Memory → Nat → Option Rgb
  | [], _ => none
  | (j, u) :: rest, k => if j = k then some u else bufRead rest k

/-- `BufWrite(PIXBUF, k, v)` (00_scope.md R10), keeping the ordinals rising. -/
def bufWrite : Memory → Nat → Rgb → Memory
  | [], k, v => [(k, v)]
  | (j, u) :: rest, k, v =>
    if k < j then (k, v) :: (j, u) :: rest
    else if k = j then (k, v) :: rest
    else (j, u) :: bufWrite rest k v

/-- Element `k` of PIXBUF, a free value where nothing has written it (10_state.md R47). -/
def pixelAt (s : State) (k : Nat) : Rgb := (bufRead s.pixbuf k).getD (Config.unwrittenPixel k)

/-- A response word `{OPC, STATUS, PAYLOAD}` (40_dispatch.md R125). -/
def responseWord (opc status : Byte) (payload : BitVec 16) : Word := opc ++ (status ++ payload)

/-- `Respond(opc, status, payload)` (00_scope.md R10, 10_state.md R45). -/
def respond (opc status : Byte) (payload : BitVec 16) (s : State) : State :=
  { s with rsp := s.rsp ++ [responseWord opc status payload] }

/-- The bytes of one container as the output port carries them: the last marked, no other (44_serializer.md R232).
No container is empty (R232), and of an empty string nothing is emitted (DESIGN CHOICE, log entry 12). -/
def markLast : List Byte → List (Byte × Bool)
  | [] => []
  | [b] => [(b, true)]
  | b :: c :: rest => (b, false) :: markLast (c :: rest)

/-- `Emit` of one container (10_state.md R44). -/
def emit (bytes : List Byte) (s : State) : State :=
  { s with out := s.out ++ markLast bytes }

/-- `raise Error(e)` during the step of a word with opcode byte `opc` (60_exceptions.md R283). -/
def raiseError (e : ErrorKind) (opc : Byte) (s : State) : State :=
  respond opc (errorCode e) 0#16
    { s with errCode := errorCode e, errOp := opc, pixCount := 0#32, glyphs := [], mode := .error }

/-- The way out of ERROR, and of any open asset: everything of it dropped, `W` and `H` kept (60_exceptions.md R286,
45_control.md R264). -/
def leaveError (s : State) : State :=
  { s with pixCount := 0#32, glyphs := [], errCode := 0#8, errOp := 0#8, mode := .idle }

/-- Which commands are performed where: the ERROR column is 40_dispatch.md R121, the others its table R123. -/
def legality (op : Opcode) (m : Mode) : Verdict :=
  match op, m with
  | .nop, _ => .perform
  | .query, _ => .perform
  | .abort, _ => .perform
  | _, .error => .discard
  | .setW, _ => .perform
  | .setH, _ => .perform
  | .xcode, _ => .perform
  | .imgBegin, .idle => .perform
  | .imgBegin, _ => .illegal .sequence
  | .pixel, .img => .perform
  | .pixel, _ => .illegal .sequence
  | .imgEnd, .img => .perform
  | .imgEnd, _ => .illegal .sequence
  | .fontBegin, .idle => .perform
  | .fontBegin, _ => .illegal .sequence
  | .glyphBegin, .font => .perform
  | .glyphBegin, .glyph => .illegal .sampleCount
  | .glyphBegin, _ => .illegal .sequence
  | .sample, .glyph => .perform
  | .sample, _ => .illegal .sequence
  | .fontEnd, .font => .perform
  | .fontEnd, .glyph => .illegal .sampleCount
  | .fontEnd, _ => .illegal .sequence

/-- The step of a well-formed command whose own rule is `body`: the ERROR filter and the legality table first
(40_dispatch.md R121, R123), then the rule, precise: it completes, or its only effects are those of error entry on the
state before it (R124). -/
def runCommand (op : Opcode) (body : State → Except ErrorKind State) (s : State) : State :=
  match legality op s.mode with
  | .discard => s
  | .illegal e => raiseError e op.code s
  | .perform =>
    match body s with
    | .ok t => t
    | .error e => raiseError e op.code s

/-- The error a malformed word raises (30_encoding.md R94). -/
def malformedError : Malformed → ErrorKind
  | .unassignedOpcode => .opcode
  | .reservedBits => .reservedBits

/-- The step of a malformed word: discarded in ERROR (40_dispatch.md R121), an error entry elsewhere (R122). -/
def rejectWord (m : Malformed) (w : Word) (s : State) : State :=
  match s.mode with
  | .error => s
  | _ => raiseError (malformedError m) (opcodeByte w) s

end Sys2Proof.Machine
end

