-- ==== Sys2Proof/Machine/Flags.lean ====
section
/-! DEFINITION. The status the block shows. There are no condition flags (10_state.md R32): the status is STATE, ERR_CODE
and ERR_OP, read by QUERY, and the output levels of 10_state.md R41 to R43 and
70_reset_and_hazards.md R320. -/

namespace Sys2Proof.Machine

/-- `err_o` (10_state.md R43). -/
def errO (s : State) : Bool := s.mode == .error

/-- `state_o` (10_state.md R43). -/
def stateO (s : State) : BitVec 3 := modeCode s.mode

/-- The payload of QUERY, `{ERR_OP, 0b00000, STATE}` (40_dispatch.md R126). -/
def statusPayload (s : State) : BitVec 16 := s.errOp ++ (0#5 ++ modeCode s.mode)

/-- `cmd_ready` (70_reset_and_hazards.md R320): 0 while `rst_n` is 0. That it is 1 else is the untimed model's, where each
command's output fits the FIFOs (R324; log entry 9). -/
def cmdReady (s : State) : Bool := s.rstN

/-- `out_data` and `out_last` while `out_valid` is 1, none while it is 0: the first element of OUT that the consumer has
not taken (10_state.md R41), nothing while `rst_n` is 0 (70_reset_and_hazards.md R320). -/
def outOffered (s : State) : Option (Byte × Bool) := if s.rstN then s.out[s.outTaken]? else none

/-- `rsp_data` while `rsp_valid` is 1, none while it is 0 (10_state.md R42; 70_reset_and_hazards.md R320). -/
def rspOffered (s : State) : Option Word := if s.rstN then s.rsp[s.rspTaken]? else none

/-- What the consumer has received since reset (20_memory.md R64). -/
def outReceived (s : State) : List (Byte × Bool) := s.out.take s.outTaken

end Sys2Proof.Machine
end

