-- ==== Sys2Proof/Machine/Control.lean ====
section
/-! DEFINITION. The control commands NOP, SET_W, SET_H, QUERY and ABORT (45_control.md). -/

namespace Sys2Proof.Machine

/-- The rule of NOP: no effect (45_control.md R260). -/
def nopRule (s : State) : Except ErrorKind State := .ok s

/-- NOP does nothing (45_control.md R260). -/
def execNop (s : State) : Host.Outcome State Fault Refusal := .next (runCommand .nop nopRule s)

/-- The rule of SET_W: `W <- imm16` (45_control.md R261). -/
def setWRule (imm16 : BitVec 16) (s : State) : Except ErrorKind State := .ok { s with w := imm16 }

/-- SET_W sets the width register (45_control.md R261). -/
def execSetW (imm16 : BitVec 16) (s : State) : Host.Outcome State Fault Refusal :=
  .next (runCommand .setW (setWRule imm16) s)

/-- The rule of SET_H: `H <- imm16` (45_control.md R262). -/
def setHRule (imm16 : BitVec 16) (s : State) : Except ErrorKind State := .ok { s with h := imm16 }

/-- SET_H sets the height register (45_control.md R262). -/
def execSetH (imm16 : BitVec 16) (s : State) : Host.Outcome State Fault Refusal :=
  .next (runCommand .setH (setHRule imm16) s)

/-- The rule of QUERY: ERR_CODE, ERR_OP and STATE as a response (45_control.md R263). -/
def queryRule (s : State) : Except ErrorKind State := .ok (respond Opcode.query.code s.errCode (statusPayload s) s)

/-- QUERY reports the status registers (45_control.md R263). -/
def execQuery (s : State) : Host.Outcome State Fault Refusal := .next (runCommand .query queryRule s)

/-- The rule of ABORT: the asset dropped, ERROR left, and a response (45_control.md R264). -/
def abortRule (s : State) : Except ErrorKind State := .ok (respond Opcode.abort.code 0#8 0#16 (leaveError s))

/-- ABORT discards the open asset and leaves ERROR (45_control.md R264). -/
def execAbort (s : State) : Host.Outcome State Fault Refusal := .next (runCommand .abort abortRule s)

end Sys2Proof.Machine
end

