-- ==== Sys2Proof/Machine/Operands.lean ====
section
/-! DEFINITION. The values commands take from their operands and from the glyph table, and the checks on them: colour
counts (41_quantizer.md R140, R142), Unicode codes (44_serializer.md R222, R229), glyph sizes (10_state.md R30,
42_packer.md R179). Everything is an unsigned integer (00_scope.md R7, 40_dispatch.md R129). -/

namespace Sys2Proof.Machine

/-- `ValidColors(c)` (41_quantizer.md R140). -/
def validColors (c : Nat) : Bool := decide (1 ≤ c) && decide (c ≤ 256) && (c &&& (c - 1)) == 0

/-- `bpp(c) = ceil(log2(c))` of a valid count, the exponent `k` with `2^k = c` (41_quantizer.md R142); of a count
that is not valid, `log2` rounded down, 0 for 0 (DESIGN CHOICE, log entry 12). -/
def bppOf (c : Nat) : Nat := Nat.log2 c

/-- `ceil(a / b)` (00_scope.md R8). -/
def ceilDiv (a b : Nat) : Nat := (a + b - 1) / b

/-- `bitlen(v)`: the bits of `v` without leading zeros, 0 for 0 (00_scope.md R8). -/
def bitlen (v : Nat) : Nat := if v = 0 then 0 else Nat.log2 v + 1

/-- A Unicode scalar value (44_serializer.md R229). -/
def scalarValue (code : Nat) : Bool := decide (code ≤ 0x10FFFF) && !(decide (0xD800 ≤ code) && decide (code ≤ 0xDFFF))

/-- `utf8len(code)` (44_serializer.md R222); of a number that is no scalar value as `utf8` (DESIGN CHOICE, log entry 12). -/
def utf8len (code : Nat) : Nat :=
  if code ≤ 0x7F then 1 else if code ≤ 0x7FF then 2 else if code ≤ 0xFFFF then 3 else 4

/-- `WIDTH_ENTRY_BYTES` as a number (00_scope.md R5). -/
def widthEntryBytes : WidthEntry → Nat
  | .one => 1
  | .two => 2

/-- The glyph's sample count when complete, `GNEED` of 10_state.md R30. -/
def glyphNeed (g : Glyph) (fh : Nat) : Nat := g.width.toNat * fh

/-- `Need(g)`: the bits of glyph `g` when complete (42_packer.md R179). -/
def needBits (g : Glyph) (fh b : Nat) : Nat := g.width.toNat * fh * b

/-- `PadBits(n)` (42_packer.md R179). -/
def padBits (align : Bool) (n : Nat) : Nat := if align then 8 * ceilDiv n 8 else n

/-- `MAPLEN` (10_state.md R30). -/
def mapLen (gs : List Glyph) : Nat := (gs.map (fun g => utf8len g.code.toNat)).sum

/-- `GlyphSectionBits(G, FH, b)` (42_packer.md R179); `FONTBITS` of 10_state.md R30. -/
def sectionBits (align : Bool) (gs : List Glyph) (fh b : Nat) : Nat :=
  (gs.map (fun g => padBits align (needBits g fh b))).sum

/-- `off(G, i)`: glyph `i`'s bit offset in the section (42_packer.md R179); past the table's end, the bits of the whole table
(DESIGN CHOICE, log entry 12). -/
def glyphOffset (align : Bool) (gs : List Glyph) (fh b i : Nat) : Nat := sectionBits align (gs.take i) fh b

/-- `MAXW`: the largest width, 0 for an empty table (44_serializer.md R221). -/
def maxWidth (gs : List Glyph) : Nat := (gs.map (fun g => g.width.toNat)).foldl max 0

/-- `MAXOFF`: the last glyph's offset, 0 for an empty table (44_serializer.md R224). -/
def maxOffset (align : Bool) (gs : List Glyph) (fh b : Nat) : Nat := glyphOffset align gs fh b (gs.length - 1)

/-- `OB = max(1, ceil(bitlen(MAXOFF) / 8))` (44_serializer.md R224). -/
def offsetBytes (align : Bool) (gs : List Glyph) (fh b : Nat) : Nat :=
  max 1 (ceilDiv (bitlen (maxOffset align gs fh b)) 8)

/-- The pixels an image of the open size has, `IW · IH` (41_quantizer.md R148). -/
def imagePixels (s : State) : Nat := s.iw.toNat * s.ih.toNat

/-- A code is not above the last glyph's code (44_serializer.md R229, `E_CHAR_ORDER`). -/
def outOfOrder (gs : List Glyph) (code : Nat) : Bool :=
  match gs.getLast? with
  | none => false
  | some g => decide (code ≤ g.code.toNat)

/-- The table with one more glyph would pass a capacity (44_serializer.md R229, `E_CAPACITY`). -/
def overCapacity (s : State) (code : Nat) : Bool :=
  decide (s.cfg.maxGlyphs.val < s.glyphs.length + 1)
  || decide (65535 < mapLen s.glyphs + utf8len code)
  || decide (s.cfg.maxGlyphBits.val
      < sectionBits s.cfg.glyphByteAlign s.glyphs s.fh.toNat s.fbpp.toNat
        + padBits s.cfg.glyphByteAlign (s.w.toNat * s.fh.toNat * s.fbpp.toNat))

/-- The table with sample `v` added to its last glyph (44_serializer.md R230); no run adds one to an empty table, which
stays empty (DESIGN CHOICE, log entry 8). -/
def addSample (v : Byte) : List Glyph → List Glyph
  | [] => []
  | [g] => [{ g with samples := g.samples ++ [v] }]
  | g :: g' :: rest => g :: addSample v (g' :: rest)

/-- The last glyph of a table has all its samples (44_serializer.md R230). -/
def lastComplete (gs : List Glyph) (fh : Nat) : Bool :=
  match gs.getLast? with
  | none => false
  | some g => g.samples.length == glyphNeed g fh

end Sys2Proof.Machine
end

