-- ==== Sys2Proof/Machine/Packer.lean ====
section
/-! DEFINITION. The variable-width index packer VP (42_packer.md): bit strings are lists of bits, most significant first,
and byte strings are filled from each byte's most significant bit. -/

namespace Sys2Proof.Machine

/-- `Bits(v, n)`: the `n` bits of `v`, most significant first (42_packer.md R170). R170 defines it for `v < 2^n`; of a larger
`v` the low `n` bits are kept (DESIGN CHOICE, log entry 12). -/
def bitsOf (v n : Nat) : List Bool := (List.range n).map (fun i => v.testBit (n - 1 - i))

/-- `PackBits(xs, b)` (42_packer.md R171). -/
def packBits (xs : List Nat) (b : Nat) : List Bool := xs.flatMap (fun x => bitsOf x b)

/-- Byte `i` of a bit string padded with zero bits: `sum(bs[8i + j] << (7 − j))` (42_packer.md R172). -/
def byteOfBits (bs : List Bool) (i : Nat) : Byte :=
  BitVec.ofNat 8 (((List.range 8).map (fun j => (bs.getD (8 * i + j) false).toNat <<< (7 - j))).sum)

/-- `ToBytes(bs)` (42_packer.md R172). -/
def toBytes (bs : List Bool) : List Byte := (List.range (ceilDiv bs.length 8)).map (byteOfBits bs)

/-- `Pack(xs, b)` (42_packer.md R173). -/
def pack (xs : List Nat) (b : Nat) : List Byte := toBytes (packBits xs b)

/-- `bit(bytes, s)` (42_packer.md R178), 0 past the end. -/
def streamBit (bytes : List Byte) (s : Nat) : Bool := (bytes.getD (s / 8) 0#8).getLsbD (7 - s % 8)

/-- `b` stream bits from bit `s` on as a number, most significant first (42_packer.md R178, 20_memory.md R72). -/
def readBits (bytes : List Byte) (s b : Nat) : Nat :=
  ((List.range b).map (fun j => (streamBit bytes (s + j)).toNat <<< (b - 1 - j))).sum

/-- `Unpack(bytes, b, k)` (42_packer.md R178). -/
def unpack (bytes : List Byte) (b k : Nat) : Nat := readBits bytes (k * b) b

/-- `Slot(g)`: a glyph's bits with its padding (42_packer.md R179); of a glyph that is not complete, the samples it has and
that padding (DESIGN CHOICE, log entry 12). -/
def glyphSlot (align : Bool) (fh b : Nat) (g : Glyph) : List Bool :=
  packBits (g.samples.map BitVec.toNat) b
    ++ List.replicate (padBits align (needBits g fh b) - needBits g fh b) false

/-- `GlyphSection(G, FH, b)` (42_packer.md R179). -/
def glyphSection (align : Bool) (gs : List Glyph) (fh b : Nat) : List Byte :=
  toBytes (gs.flatMap (glyphSlot align fh b))

end Sys2Proof.Machine
end

