-- ==== Sys2Proof/Machine/Quantizer.lean ====
section
/-! DEFINITION. The quantizer QZ (41_quantizer.md): QUANT_FN and REF_QUANT, IMG_BEGIN and PIXEL. -/

namespace Sys2Proof.Machine

/-- The squared distance of two colours (41_quantizer.md R146). -/
def colorDist (p q : Rgb) : Int :=
  ((p.r.toNat : Int) - q.r.toNat) ^ 2 + ((p.g.toNat : Int) - q.g.toNat) ^ 2 + ((p.b.toNat : Int) - q.b.toNat) ^ 2

/-- The distinct values of a list in order of first appearance (41_quantizer.md R146). -/
def distinctColors (px : List Rgb) : List Rgb := px.foldl (fun d p => if p ∈ d then d else d ++ [p]) []

/-- The least index from `j` on that beats `best`, whose distance is `d`, in a list of further entries. -/
def nearestFrom (p : Rgb) : List Rgb → (j best : Nat) → (d : Int) → Nat
  | [], _, best, _ => best
  | q :: rest, j, best, d =>
    if colorDist q p < d then nearestFrom p rest (j + 1) j (colorDist q p) else nearestFrom p rest (j + 1) best d

/-- The least index of an entry nearest to `p`; 0 for an empty palette, which no valid count gives (DESIGN CHOICE, log entry
12). -/
def nearestIndex (pal : List Rgb) (p : Rgb) : Nat :=
  match pal with
  | [] => 0
  | q :: rest => nearestFrom p rest 1 0 (colorDist q p)

/-- The palette of REF_QUANT: the first `c` distinct colours, padded with black (41_quantizer.md R146). -/
def refPalette (px : List Rgb) (c : Nat) : List Rgb :=
  (distinctColors px).take c ++ List.replicate (c - min (distinctColors px).length c) ⟨0#8, 0#8, 0#8⟩

/-- The index REF_QUANT gives one pixel: an exact match, else the nearest entry, the least index either way
(41_quantizer.md R146). -/
def refIndex (pal : List Rgb) (p : Rgb) : Nat :=
  match pal.findIdx? (fun q => q == p) with
  | some j => j
  | none => nearestIndex pal p

/-- `REF_QUANT(w, h, px, c)` (41_quantizer.md R146). -/
def refQuant (px : List Rgb) (c : Nat) : List Rgb × List Nat :=
  (refPalette px c, px.map (refIndex (refPalette px c)))

/-- `QUANT_FN(w, h, px, c)` (41_quantizer.md R143). The open function is any that meets laws Q1 to Q3: `c` palette
entries, and for each of the `w·h` pixels an index below `c`, all functions of the arguments alone. -/
def quantize (q : QuantFn) (w h : Nat) (px : List Rgb) (c : Nat) : List Rgb × List Nat :=
  match q with
  | .ref => refQuant px c
  | .unnamed =>
    ((List.range c).map (Config.quantPalette w h px c),
      (List.range (w * h)).map (fun k => Config.quantIndex w h px c k % c))

/-- The rule of IMG_BEGIN in IDLE: the colour count, then the capacity, then the image is open (41_quantizer.md R147). -/
def imgBeginRule (colors : BitVec 24) (s : State) : Except ErrorKind State :=
  if !validColors colors.toNat then .error .invalidColorDepth
  else if s.cfg.maxPixels.val < s.w.toNat * s.h.toNat then .error .capacity
  else .ok { s with
    iw := s.w, ih := s.h, colors := colors.setWidth 9, bpp := BitVec.ofNat 4 (bppOf colors.toNat),
    pixCount := 0#32, mode := .img }

/-- IMG_BEGIN opens an image (41_quantizer.md R147). -/
def execImgBegin (colors : BitVec 24) (s : State) : Host.Outcome State Fault Refusal :=
  .next (runCommand .imgBegin (imgBeginRule colors) s)

/-- The rule of PIXEL in IMG: the next element of PIXBUF (41_quantizer.md R148). -/
def pixelRule (p : Rgb) (s : State) : Except ErrorKind State :=
  if s.pixCount.toNat = imagePixels s then .error .pixelCount
  else .ok { s with pixbuf := bufWrite s.pixbuf s.pixCount.toNat p, pixCount := s.pixCount + 1#32 }

/-- PIXEL gives the next pixel of the open image (41_quantizer.md R148). -/
def execPixel (r g b : Byte) (s : State) : Host.Outcome State Fault Refusal :=
  .next (runCommand .pixel (pixelRule ⟨r, g, b⟩) s)

end Sys2Proof.Machine
end

