-- ==== Sys2Proof/Machine/Transcoder.lean ====
section
/-! DEFINITION. The 16-bit colour transcoder CT (43_transcoder.md) and XCODE. -/

namespace Sys2Proof.Machine

/-- `rgb565 = ((R & 0xF8) << 8) | ((G & 0xFC) << 3) | (B >> 3)` (43_transcoder.md R190). -/
def rgb565 (p : Rgb) : BitVec 16 :=
  ((p.r.setWidth 16 &&& 0xF8#16) <<< 8) ||| ((p.g.setWidth 16 &&& 0xFC#16) <<< 3) ||| (p.b.setWidth 16 >>> 3)

/-- The wire value: `rgb565` with its two bytes swapped (43_transcoder.md R191). -/
def wireColor (p : Rgb) : BitVec 16 := ((rgb565 p &&& 0x00FF#16) <<< 8) ||| (rgb565 p >>> 8)

/-- The rule of XCODE: the wire value as a response, and nothing else (43_transcoder.md R195). -/
def xcodeRule (p : Rgb) (s : State) : Except ErrorKind State :=
  .ok (respond Opcode.xcode.code 0#8 (wireColor p) s)

/-- XCODE transcodes one pixel and returns its wire value (43_transcoder.md R195). -/
def execXcode (r g b : Byte) (s : State) : Host.Outcome State Fault Refusal :=
  .next (runCommand .xcode (xcodeRule ⟨r, g, b⟩) s)

end Sys2Proof.Machine
end

