-- ==== Sys2Proof/Machine/Serializer.lean ====
section
/-! DEFINITION. The bitstream serializer BS (44_serializer.md): the two containers, IMG_END and the font commands. -/

namespace Sys2Proof.Machine

/-- `leN(v, n)`: the `n` bytes of `v`, least significant first (00_scope.md R10, 20_memory.md R65). R10 defines it for
`v < 2^(8n)`; of a larger `v` the low `n` bytes are kept (DESIGN CHOICE, log entry 12). -/
def leBytes (v n : Nat) : List Byte := (List.range n).map (fun i => BitVec.ofNat 8 (v >>> (8 * i)))

/-- `WireBytes(p) = le16(wire(p))` (43_transcoder.md R192). -/
def wireBytes (p : Rgb) : List Byte := leBytes (wireColor p).toNat 2

/-- `ImgContainer(IW, IH, COLORS, BPP, pal, idx)` (44_serializer.md R215), for arguments no run gives too (DESIGN CHOICE, log
entry 12). -/
def imgContainer (iw ih colors bpp : Nat) (pal : List Rgb) (idx : List Nat) : List Byte :=
  leBytes iw 2 ++ leBytes ih 2 ++ [BitVec.ofNat 8 (colors % 256)] ++ [BitVec.ofNat 8 bpp]
    ++ pal.flatMap wireBytes ++ pack idx bpp

/-- The pixels of the open image, in order (44_serializer.md R216). -/
def imagePx (s : State) : List Rgb := (List.range (imagePixels s)).map (pixelAt s)

/-- The palette and indices of the open image (44_serializer.md R216); local to the step (10_state.md R33). -/
def imageQuant (s : State) : List Rgb × List Nat :=
  quantize s.cfg.quant s.iw.toNat s.ih.toNat (imagePx s) s.colors.toNat

/-- The container of the open image (44_serializer.md R216). -/
def openImage (s : State) : List Byte :=
  imgContainer s.iw.toNat s.ih.toNat s.colors.toNat s.bpp.toNat (imageQuant s).1 (imageQuant s).2

/-- The rule of IMG_END in IMG: with every pixel given, the container is emitted, the image closed, and the command
answered (44_serializer.md R216). -/
def imgEndRule (s : State) : Except ErrorKind State :=
  if s.pixCount.toNat ≠ imagePixels s then .error .pixelCount
  else .ok (respond Opcode.imgEnd.code 0#8 0#16 { emit (openImage s) s with pixCount := 0#32, mode := .idle })

/-- IMG_END quantizes the open image and emits its container (44_serializer.md R216). -/
def execImgEnd (s : State) : Host.Outcome State Fault Refusal := .next (runCommand .imgEnd imgEndRule s)

/-- The UTF-8 bytes of a code (44_serializer.md R222); of a number that is no scalar value, those of the range it falls in,
the last range having no end (DESIGN CHOICE, log entry 12). -/
def utf8 (code : Nat) : List Byte :=
  if code ≤ 0x7F then [BitVec.ofNat 8 code]
  else if code ≤ 0x7FF then
    [BitVec.ofNat 8 (0xC0 ||| code >>> 6), BitVec.ofNat 8 (0x80 ||| code % 64)]
  else if code ≤ 0xFFFF then
    [BitVec.ofNat 8 (0xE0 ||| code >>> 12), BitVec.ofNat 8 (0x80 ||| (code >>> 6) % 64),
      BitVec.ofNat 8 (0x80 ||| code % 64)]
  else
    [BitVec.ofNat 8 (0xF0 ||| code >>> 18), BitVec.ofNat 8 (0x80 ||| (code >>> 12) % 64),
      BitVec.ofNat 8 (0x80 ||| (code >>> 6) % 64), BitVec.ofNat 8 (0x80 ||| code % 64)]

/-- `FontContainer(G, FH, FBPP)` of a block with configuration `cfg` (44_serializer.md R227), for arguments no run gives too
(DESIGN CHOICE, log entry 12). -/
def fontContainer (cfg : Params) (gs : List Glyph) (fh fbpp : Nat) : List Byte :=
  cfg.fontMagic.toList ++ [BitVec.ofNat 8 fbpp] ++ leBytes fh 2 ++ leBytes (maxWidth gs) 2
    ++ [BitVec.ofNat 8 (offsetBytes cfg.glyphByteAlign gs fh fbpp)] ++ leBytes (mapLen gs) 2
    ++ gs.flatMap (fun g => utf8 g.code.toNat)
    ++ gs.flatMap (fun g => leBytes g.width.toNat (widthEntryBytes cfg.widthEntry))
    ++ (List.range gs.length).flatMap (fun i =>
        leBytes (glyphOffset cfg.glyphByteAlign gs fh fbpp i) (offsetBytes cfg.glyphByteAlign gs fh fbpp))
    ++ glyphSection cfg.glyphByteAlign gs fh fbpp

/-- The container of the open font (44_serializer.md R231). -/
def openFont (s : State) : List Byte := fontContainer s.cfg s.glyphs s.fh.toNat s.fbpp.toNat

/-- The rule of FONT_BEGIN in IDLE: 1 to 8 bits per sample (44_serializer.md R228). -/
def fontBeginRule (bpp : BitVec 24) (s : State) : Except ErrorKind State :=
  if bpp.toNat < 1 ∨ 8 < bpp.toNat then .error .bpp
  else .ok { s with fbpp := bpp.setWidth 4, fh := s.h, glyphs := [], mode := .font }

/-- FONT_BEGIN opens a font (44_serializer.md R228). -/
def execFontBegin (bpp : BitVec 24) (s : State) : Host.Outcome State Fault Refusal :=
  .next (runCommand .fontBegin (fontBeginRule bpp) s)

/-- The rule of GLYPH_BEGIN in FONT: the code, its order, the width and the capacities in that order, then the glyph is
added; one without samples is complete at once (44_serializer.md R229). -/
def glyphBeginRule (code : BitVec 24) (s : State) : Except ErrorKind State :=
  if !scalarValue code.toNat then .error .char
  else if outOfOrder s.glyphs code.toNat then .error .charOrder
  else if s.cfg.widthEntry = .one ∧ 255 < s.w.toNat then .error .glyphWidth
  else if overCapacity s code.toNat then .error .capacity
  else .ok { s with
    glyphs := s.glyphs ++ [⟨code.setWidth 21, s.w, []⟩],
    mode := if s.w.toNat * s.fh.toNat = 0 then .font else .glyph }

/-- GLYPH_BEGIN adds one glyph to the open font (44_serializer.md R229). -/
def execGlyphBegin (code : BitVec 24) (s : State) : Host.Outcome State Fault Refusal :=
  .next (runCommand .glyphBegin (glyphBeginRule code) s)

/-- The rule of SAMPLE in GLYPH: a sample below `2^FBPP` for the open glyph, whose last one closes it
(44_serializer.md R230). -/
def sampleRule (v : BitVec 24) (s : State) : Except ErrorKind State :=
  if 2 ^ s.fbpp.toNat ≤ v.toNat then .error .sampleRange
  else .ok { s with
    glyphs := addSample (v.setWidth 8) s.glyphs,
    mode := if lastComplete (addSample (v.setWidth 8) s.glyphs) s.fh.toNat then .font else s.mode }

/-- SAMPLE gives the next sample of the open glyph (44_serializer.md R230). -/
def execSample (v : BitVec 24) (s : State) : Host.Outcome State Fault Refusal :=
  .next (runCommand .sample (sampleRule v) s)

/-- The rule of FONT_END in FONT: the container is emitted, the font closed, and the command answered
(44_serializer.md R231). -/
def fontEndRule (s : State) : Except ErrorKind State :=
  .ok (respond Opcode.fontEnd.code 0#8 0#16 { emit (openFont s) s with glyphs := [], mode := .idle })

/-- FONT_END emits the font container and closes the font (44_serializer.md R231). -/
def execFontEnd (s : State) : Host.Outcome State Fault Refusal := .next (runCommand .fontEnd fontEndRule s)

end Sys2Proof.Machine
end

