-- ==== Sys2Proof/Machine/Dispatch.lean ====
section
/-! DEFINITION. Each command's meaning (30_encoding.md R92). -/

namespace Sys2Proof.Machine

def exec (i : Instr) (s : State) : Host.Outcome State Fault Refusal :=
  match i with
  | .nop => Sys2Proof.Machine.execNop s
  | .setW imm16 => Sys2Proof.Machine.execSetW imm16 s
  | .setH imm16 => Sys2Proof.Machine.execSetH imm16 s
  | .imgBegin colors => Sys2Proof.Machine.execImgBegin colors s
  | .pixel r g b => Sys2Proof.Machine.execPixel r g b s
  | .imgEnd => Sys2Proof.Machine.execImgEnd s
  | .fontBegin bpp => Sys2Proof.Machine.execFontBegin bpp s
  | .glyphBegin code => Sys2Proof.Machine.execGlyphBegin code s
  | .sample v => Sys2Proof.Machine.execSample v s
  | .fontEnd => Sys2Proof.Machine.execFontEnd s
  | .xcode r g b => Sys2Proof.Machine.execXcode r g b s
  | .query => Sys2Proof.Machine.execQuery s
  | .abort => Sys2Proof.Machine.execAbort s

end Sys2Proof.Machine
end

