-- ==== Sys2Proof/Machine/Fetch.lean ====
section
/-! DEFINITION. What the block finds at its ports: the next event of the environment (20_memory.md R79). A command word is
taken whole (R70) and moves the position by one (10_state.md R27); the other events are dealt with here. -/

namespace Sys2Proof.Machine

/-- The consumer takes the byte offered, if one is offered (10_state.md R41): an element of OUT is never removed or
changed (R44), only counted as taken. -/
def takeOutByte (s : State) : State :=
  if (outOffered s).isSome then { s with outTaken := s.outTaken + 1 } else s

/-- The host takes the response offered, if one is offered (10_state.md R42). -/
def takeResponseWord (s : State) : State :=
  if (rspOffered s).isSome then { s with rspTaken := s.rspTaken + 1 } else s

/-- `rst_n` asserted (70_reset_and_hazards.md R320, R321): every register at its reset value, every FIFO empty, and the
block held in reset. The configuration stays (R323), and so does what the environment does after it
(DESIGN CHOICE, log entries 1 and 2). -/
def resetBlock (s : State) : State := { State.resetWith s.cfg with rstN := false, inbox := s.inbox }

/-- `rst_n` released (70_reset_and_hazards.md R320): the block takes commands again. -/
def releaseBlock (s : State) : State := { s with rstN := true }

/-- The block takes a command word: the position advances by one, whatever the word is (10_state.md R27). -/
def acceptWord (s : State) : State := { s with pos := s.pos + 1 }

/-- The event that happens next, and the events after it. While `rst_n` is 0 no word is taken (70_reset_and_hazards.md
R320): the host keeps offering it (10_state.md R40), so it stays first while the events after it happen
(DESIGN CHOICE, log entry 1). -/
def nextEvent : Bool → List HostEvent → Option (HostEvent × List HostEvent)
  | _, [] => none
  | false, .command w :: rest => (nextEvent false rest).map (fun x => (x.1, .command w :: x.2))
  | _, e :: rest => some (e, rest)

/-- What the block does about an event; only a word is taken from the ports to be run. -/
def atPorts : HostEvent → State → Fetched
  | .command w, s => .taken w (acceptWord s)
  | .takeByte, s => .handled (takeOutByte s)
  | .takeResponse, s => .handled (takeResponseWord s)
  | .assertReset, s => .handled (resetBlock s)
  | .releaseReset, s => .handled (releaseBlock s)

/-- The next event of the environment, taken from `inbox`; without one the block waits (60_exceptions.md R294). -/
def fetch (s : State) : Fetched :=
  match nextEvent s.rstN s.inbox with
  | none => .waiting
  | some (e, rest) => atPorts e { s with inbox := rest }

/-- The host offers a word before everything else it does. -/
def offerWord (w : Word) (s : State) : State := { s with inbox := .command w :: s.inbox }

end Sys2Proof.Machine
end

