-- ==== Sys2Proof/Machine/Step.lean ====
section
/-! DEFINITION. One step: the next event at the ports, and for a command word its decoding (40_dispatch.md R122) and its
meaning, or the rejection of a malformed word. -/

namespace Sys2Proof.Machine

/-- The step of one command word, `step(s, word)` of 40_dispatch.md R120. -/
def stepWord (w : Word) (s : State) : Host.Outcome State Fault Refusal :=
  match decode w with
  | .ok i => exec i s
  | .error m => .next (rejectWord m w s)

/-- One step of the machine; without an event it waits with every register kept (60_exceptions.md R294). -/
def step (s : State) : Host.Outcome State Fault Refusal :=
  match fetch s with
  | .waiting => .next s
  | .handled t => .next t
  | .taken w t => stepWord w t

/-- The state in which the host offers the table row's word next to a block out of reset, so that the very next step takes
and runs it. -/
def State.withFetchWord (s : State) (nbits w : Nat) : State := { offerWord (tableWord nbits w) s with rstN := true }

end Sys2Proof.Machine
end

