-- ==== Sys2Proof/Machine/AddressMap.lean ====
section
/-! DEFINITION. The container address map (20_memory.md R72, R73): where a reader finds a palette entry, an index or a glyph,
computed from the header as those rules say. No command uses it; the statements about containers do. -/

namespace Sys2Proof.Machine

/-- The byte at an offset of a container (20_memory.md R64), as a number; 0 past the end. -/
def byteAt (c : List Byte) (o : Nat) : Nat := (c.getD o 0#8).toNat

/-- The little-endian field of `n` bytes at offset `o` (20_memory.md R65). -/
def fieldAt (c : List Byte) (o n : Nat) : Nat := ((List.range n).map (fun i => byteAt c (o + i) <<< (8 * i))).sum

/-- The palette size of an IMG container, `2^bpp` of header byte 5 (20_memory.md R72). -/
def imgPaletteSize (c : List Byte) : Nat := 2 ^ byteAt c 5

/-- Palette entry `j` of an IMG container, at offset `6 + 2j` (20_memory.md R72). -/
def imgPaletteEntry (c : List Byte) (j : Nat) : Nat := fieldAt c (6 + 2 * j) 2

/-- The bitmap's offset in an IMG container, `6 + 2C` (20_memory.md R72). -/
def imgBitmapAt (c : List Byte) : Nat := 6 + 2 * imgPaletteSize c

/-- The index of pixel `(x, y)` of an IMG container (20_memory.md R72). -/
def imgIndexAt (c : List Byte) (x y : Nat) : Nat :=
  readBits (c.drop (imgBitmapAt c)) ((y * fieldAt c 0 2 + x) * byteAt c 5) (byteAt c 5)

/-- A byte that continues a character: its bits 7:6 are `10` (44_serializer.md R222; DEDUCED, log entry 11). -/
def utf8Continues (b : Byte) : Bool := b &&& 0xC0#8 == 0x80#8

/-- The characters of a UTF-8 byte string, each by its bytes: a new one begins at each byte that does not continue one. -/
def utf8Chars : List Byte → List (List Byte)
  | [] => []
  | [b] => [[b]]
  | b :: c :: rest =>
    if utf8Continues c then
      match utf8Chars (c :: rest) with
      | [] => [[b]]
      | g :: gs => (b :: g) :: gs
    else [b] :: utf8Chars (c :: rest)

/-- How many characters a UTF-8 byte string holds. -/
def utf8Count (bs : List Byte) : Nat := (utf8Chars bs).length

/-- The code that the UTF-8 bytes of one character stand for (44_serializer.md R222); 0 for any other byte string. -/
def utf8Value : List Byte → Nat
  | [a] => a.toNat
  | [a, b] => a.toNat % 32 * 64 + b.toNat % 64
  | [a, b, c] => (a.toNat % 16 * 64 + b.toNat % 64) * 64 + c.toNat % 64
  | [a, b, c, d] => ((a.toNat % 8 * 64 + b.toNat % 64) * 64 + c.toNat % 64) * 64 + d.toNat % 64
  | _ => 0

/-- The character map of a FONT container (20_memory.md R73). -/
def fontMapOf (c : List Byte) : List Byte := (c.drop 12).take (fieldAt c 10 2)

/-- The characters of the map, by code and in order: the `i`-th is glyph `i`'s (20_memory.md R73). -/
def fontCharsOf (c : List Byte) : List Nat := (utf8Chars (fontMapOf c)).map utf8Value

/-- The glyph of a character, found by scanning the map; none where no glyph has it (20_memory.md R73). -/
def fontGlyphOf (c : List Byte) (code : Nat) : Option Nat := (fontCharsOf c).findIdx? (fun x => x == code)

/-- The number of glyphs, counted in the map (20_memory.md R73). -/
def fontGlyphCount (c : List Byte) : Nat := utf8Count (fontMapOf c)

/-- The width entry of glyph `i`, at `12 + L + WB·i` (20_memory.md R73). -/
def fontWidthOf (wb : Nat) (c : List Byte) (i : Nat) : Nat := fieldAt c (12 + fieldAt c 10 2 + wb * i) wb

/-- The offset-table entry of glyph `i`, at `12 + L + WB·n + OB·i` (20_memory.md R73). -/
def fontOffsetOf (wb : Nat) (c : List Byte) (i : Nat) : Nat :=
  fieldAt c (12 + fieldAt c 10 2 + wb * fontGlyphCount c + byteAt c 9 * i) (byteAt c 9)

/-- The bitmap section's offset, `12 + L + (WB + OB)·n` (20_memory.md R73). -/
def fontSectionAt (wb : Nat) (c : List Byte) : Nat :=
  12 + fieldAt c 10 2 + (wb + byteAt c 9) * fontGlyphCount c

/-- The length in bits of glyph `i`'s bitmap, `width_i · height · b` (20_memory.md R73). -/
def fontBitmapBits (wb : Nat) (c : List Byte) (i : Nat) : Nat := fontWidthOf wb c i * fieldAt c 5 2 * byteAt c 4

/-- The byte and the bit in it where glyph `i`'s bitmap starts, bit `7 − (off_i mod 8)` of byte `S + (off_i div 8)`
(20_memory.md R73). -/
def fontBitmapStart (wb : Nat) (c : List Byte) (i : Nat) : Nat × Nat :=
  (fontSectionAt wb c + fontOffsetOf wb c i / 8, 7 - fontOffsetOf wb c i % 8)

/-- The bits of glyph `i`'s bitmap (20_memory.md R73). -/
def fontBitmapOf (wb : Nat) (c : List Byte) (i : Nat) : List Bool :=
  (List.range (fontBitmapBits wb c i)).map
    (fun k => streamBit (c.drop (fontSectionAt wb c)) (fontOffsetOf wb c i + k))

/-- Sample `j` of glyph `i`: `b` bits, header byte 4, from stream bit `off_i + j·b` of the section (20_memory.md R73). -/
def fontSampleOf (wb : Nat) (c : List Byte) (i j : Nat) : Nat :=
  readBits (c.drop (fontSectionAt wb c)) (fontOffsetOf wb c i + j * byteAt c 4) (byteAt c 4)

end Sys2Proof.Machine
end

