-- ==== Sys2Proof/Safety.lean ====
section
/-! DEFINITION. What the statements about the machine are said in: the state error entry leaves, a complete glyph, and the
invariants of the block. Nothing here runs. -/

namespace Sys2Proof.Safety

open Sys2Proof.Machine

/-- The state `raise Error(code)` leaves for a word with opcode byte `opc`, written out (60_exceptions.md R283). -/
def errorEntry (code opc : Byte) (s : State) : State :=
  { s with
    errCode := code, errOp := opc, pixCount := 0#32, glyphs := [], mode := .error,
    rsp := s.rsp ++ [opc ++ (code ++ 0#16)] }

/-- A glyph has all its samples (44_serializer.md R230). -/
def GlyphDone (fh : Nat) (g : Glyph) : Prop := g.samples.length = g.width.toNat * fh

/-- The error registers agree with STATE (10_state.md R31), and ERR_CODE is a code of 60_exceptions.md R280; that ERR_OP is 0
outside ERROR is DEDUCED (log entry 8). -/
def ErrorRegisters (s : State) : Prop :=
  (s.errCode = 0#8 ↔ s.mode ≠ .error) ∧ (s.mode ≠ .error → s.errOp = 0#8) ∧ s.errCode.toNat ≤ 0x0C

/-- Without an open asset of a kind, that asset's data is empty (10_state.md R25, R29). -/
def NothingLeftOpen (s : State) : Prop :=
  (s.mode ≠ .img → s.pixCount = 0#32) ∧ (s.mode ≠ .font → s.mode ≠ .glyph → s.glyphs = [])

/-- What an open image is (10_state.md R24, R25, R47; 41_quantizer.md R147, R148). -/
structure ImageOpen (s : State) : Prop where
  /-- `COLORS` is a valid count -/
  colors_valid : validColors s.colors.toNat = true
  /-- `COLORS = 2^BPP` -/
  colors_pow : s.colors.toNat = 2 ^ s.bpp.toNat
  /-- `PIX_COUNT` never exceeds `IW·IH` -/
  count_le : s.pixCount.toNat ≤ imagePixels s
  /-- the image fits PIXBUF -/
  capacity : imagePixels s ≤ s.cfg.maxPixels.val
  /-- every element below `PIX_COUNT` has been written -/
  written : ∀ k, k < s.pixCount.toNat → (bufRead s.pixbuf k).isSome = true

/-- What an open font is (10_state.md R28, R29; 44_serializer.md R228 to R230). -/
structure FontOpen (s : State) : Prop where
  /-- `FBPP` is 1 to 8 -/
  bpp_pos : 1 ≤ s.fbpp.toNat
  bpp_le : s.fbpp.toNat ≤ 8
  /-- codes are strictly ascending -/
  ascending : s.glyphs.Pairwise (fun a b => a.code.toNat < b.code.toNat)
  /-- every code is a Unicode scalar value -/
  scalar : ∀ g ∈ s.glyphs, scalarValue g.code.toNat = true
  /-- every sample is below `2^FBPP` -/
  sample_lt : ∀ g ∈ s.glyphs, ∀ v ∈ g.samples, v.toNat < 2 ^ s.fbpp.toNat
  /-- every width fits its width-table entry -/
  width_fits : s.cfg.widthEntry = .one → ∀ g ∈ s.glyphs, g.width.toNat ≤ 255
  /-- the three capacities -/
  glyphs_le : s.glyphs.length ≤ s.cfg.maxGlyphs.val
  map_le : mapLen s.glyphs ≤ 65535
  bits_le : sectionBits s.cfg.glyphByteAlign s.glyphs s.fh.toNat s.fbpp.toNat ≤ s.cfg.maxGlyphBits.val
  /-- in FONT every glyph is complete -/
  all_done : s.mode = .font → ∀ g ∈ s.glyphs, GlyphDone s.fh.toNat g
  /-- in GLYPH the last glyph, and it alone, still takes samples -/
  last_open : s.mode = .glyph → ∃ gs g, s.glyphs = gs ++ [g] ∧ (∀ x ∈ gs, GlyphDone s.fh.toNat x) ∧
    g.samples.length < g.width.toNat * s.fh.toNat

/-- OUT is empty or ends in a byte marked `last` (44_serializer.md R232, R233). What a consumer holds after a reset in the
middle of a transfer (70_reset_and_hazards.md R321) is not in State (DEDUCED, log entry 2). -/
def WholeOutput (s : State) : Prop := ∀ x, s.out.getLast? = some x → x.2 = true

/-- The environment has taken no more than the ports have offered (10_state.md R41, R42); the counts are the model's (DESIGN
CHOICE, log entry 2). -/
def PortsInOrder (s : State) : Prop := s.outTaken ≤ s.out.length ∧ s.rspTaken ≤ s.rsp.length

/-- While `rst_n` is 0 every register holds its reset value and every stream is empty (70_reset_and_hazards.md R320); the
counts and the position at 0 and the PIXBUF that lists nothing are the model's (log entries 2, 3 and 5). -/
def HeldAtReset (s : State) : Prop :=
  s.rstN = false → s = { State.resetWith s.cfg with rstN := false, inbox := s.inbox }

/-- The word an event offers. -/
def wordOffered : HostEvent → Option Word
  | .command w => some w
  | _ => none

/-- The words still offered, in order. -/
def wordsOffered (l : List HostEvent) : List Word := l.filterMap wordOffered

/-- The invariant of the block. -/
structure BlockInvariant (s : State) : Prop where
  memory : Memory.wf s.pixbuf
  errors : ErrorRegisters s
  closed : NothingLeftOpen s
  image : s.mode = .img → ImageOpen s
  font : s.mode = .font ∨ s.mode = .glyph → FontOpen s
  output : WholeOutput s
  ports : PortsInOrder s
  held : HeldAtReset s

end Sys2Proof.Safety
end

