-- ==== Sys2Proof/Certificates/Slice0/Obligations.lean ====
section
/-! DEFINITION. The statements for the provers, in the order of OBLIGATIONS.json. -/

open Sys2Proof Sys2Proof.Machine Sys2Proof.Safety

/-! ## Encoding -/

/-- The example words of 30_encoding.md section 5 decode to the commands they are given for. -/
def Obligations.ExampleWordsDecode : Prop :=
  decode 0x00000000#32 = .ok .nop ∧ decode 0x01000002#32 = .ok (.setW 2#16) ∧
  decode 0x0200FFFF#32 = .ok (.setH 65535#16) ∧ decode 0x10000100#32 = .ok (.imgBegin 256#24) ∧
  decode 0x11FF0000#32 = .ok (.pixel 0xFF#8 0#8 0#8) ∧ decode 0x12000000#32 = .ok .imgEnd ∧
  decode 0x20000001#32 = .ok (.fontBegin 1#24) ∧ decode 0x21000041#32 = .ok (.glyphBegin 0x41#24) ∧
  decode 0x22000001#32 = .ok (.sample 1#24) ∧ decode 0x23000000#32 = .ok .fontEnd ∧
  decode 0x30123456#32 = .ok (.xcode 0x12#8 0x34#8 0x56#8) ∧ decode 0xF0000000#32 = .ok .query ∧
  decode 0xFF000000#32 = .ok .abort

/-- Every command decodes from its own word, with every operand at every value (R90 to R93). -/
def Obligations.DecodeOfEncode : Prop := ∀ i : Instr, decode (encode i) = .ok i

/-- A word that decodes is the word of its command: no bit is ignored (R91, R94). -/
def Obligations.EncodeOfDecode : Prop := ∀ (w : Word) (i : Instr), decode w = .ok i → encode i = w

/-- Which words are malformed, case (a) and case (b), and what the step of one does, in ERROR and outside it (R94). -/
def Obligations.MalformedWordsAreRejected : Prop :=
  ∀ w : Word,
    (decode w = .error .unassignedOpcode ↔
      w.extractLsb' 24 8 ∉ [0x00#8, 0x01#8, 0x02#8, 0x10#8, 0x11#8, 0x12#8, 0x20#8, 0x21#8, 0x22#8, 0x23#8, 0x30#8,
        0xF0#8, 0xFF#8]) ∧
    (decode w = .error .reservedBits ↔
      (w.extractLsb' 24 8 ∈ [0x00#8, 0x12#8, 0x23#8, 0xF0#8, 0xFF#8] ∧ w.extractLsb' 0 24 ≠ 0#24) ∨
      (w.extractLsb' 24 8 ∈ [0x01#8, 0x02#8] ∧ w.extractLsb' 16 8 ≠ 0#8)) ∧
    ∀ s : State,
      (s.mode ≠ .error → decode w = .error .unassignedOpcode →
        stepWord w s = .next (errorEntry 0x02#8 (w.extractLsb' 24 8) s)) ∧
      (s.mode ≠ .error → decode w = .error .reservedBits →
        stepWord w s = .next (errorEntry 0x03#8 (w.extractLsb' 24 8) s)) ∧
      (s.mode = .error → (∃ m, decode w = .error m) → stepWord w s = .next s)

/-- The assembler's lines (R96) and pseudo-commands (R97). A line whose operand fits its field becomes a word that decodes
to a command of its mnemonic with its operand, a colour red first; every other such line becomes no word; a `.word` line of
32 bits becomes that word; and each pseudo-command expands into the lines of R97's table, in order. That a missing or a
superfluous operand, or a `.word` number past 32 bits, is an assembly error too, and that PIXELS and SAMPLES of no operand
expand to no lines, is the model's choice (DESIGN CHOICE, log entry 10); the spec says the former of an operand that does not
fit its field, and gives the latter no such form. -/
def Obligations.AssembledLinesDecode : Prop :=
  (∀ (op : Opcode) (x : AsmOperand),
    let fits :=
      (op ∈ [.nop, .imgEnd, .fontEnd, .query, .abort] ∧ x = .none) ∨
      (op ∈ [.setW, .setH] ∧ ∃ n, n ≤ 65535 ∧ x = .num n) ∨
      (op ∈ [.imgBegin, .pixel, .fontBegin, .glyphBegin, .sample, .xcode] ∧ ∃ n, n ≤ 16777215 ∧ x = .num n) ∨
      (op ∈ [.pixel, .xcode] ∧ ∃ r g b, r ≤ 255 ∧ g ≤ 255 ∧ b ≤ 255 ∧ x = .rgb r g b)
    (fits →
      ∃ w i, assemble (.cmd op x) = some w ∧ decode w = .ok i ∧ i.opcode = op ∧
        i.operandBits.toNat = match x with
          | .none => 0
          | .num n => n
          | .rgb r g b => r * 65536 + g * 256 + b) ∧
    (¬ fits → assemble (.cmd op x) = none)) ∧
  (∀ w : Word, assemble (.word w.toNat) = some w) ∧ (∀ n, 2 ^ 32 ≤ n → assemble (.word n) = none) ∧
  (∀ w h, expandPseudo (.dim w h) = [.cmd .setW (.num w), .cmd .setH (.num h)]) ∧
  (∀ w h c, expandPseudo (.image w h c) = [.cmd .setW (.num w), .cmd .setH (.num h), .cmd .imgBegin (.num c)]) ∧
  (∀ ps, (expandPseudo (.pixels ps)).length = ps.length ∧
    ∀ (k : Nat) p, ps[k]? = some p → (expandPseudo (.pixels ps))[k]? = some (.cmd .pixel p)) ∧
  (∀ bpp h, expandPseudo (.font bpp h) = [.cmd .setH (.num h), .cmd .fontBegin (.num bpp)]) ∧
  (∀ code w, expandPseudo (.glyph code w) = [.cmd .setW (.num w), .cmd .glyphBegin (.num code)]) ∧
  ∀ vs, (expandPseudo (.samples vs)).length = vs.length ∧
    ∀ (k : Nat) v, vs[k]? = some v → (expandPseudo (.samples vs))[k]? = some (.cmd .sample (.num v))

/-! ## The step -/

/-- When `rst_n` is 1 and the host's next event offers a word, the step takes it, moves the position and is `step(s, word)`
of R120 on that state; for a word that decodes it is the command's meaning. The list of events is the model's own (log
entry 1). -/
def Obligations.StepRunsDecodedCommand : Prop :=
  ∀ (s : State) (w : Word) (rest : List HostEvent), s.rstN = true → s.inbox = .command w :: rest →
    step s = stepWord w { s with inbox := rest, pos := s.pos + 1 } ∧
    ∀ i : Instr, decode w = .ok i → step s = exec i { s with inbox := rest, pos := s.pos + 1 }

/-- Every word taken moves the position in the command sequence by exactly one, whatever the word is (R27;
log entries 1 and 3). -/
def Obligations.PositionCountsWords : Prop :=
  ∀ (s t : State) (w : Word) (rest : List HostEvent), s.rstN = true → s.inbox = .command w :: rest →
    step s = .next t → t.pos = s.pos + 1 ∧ t.inbox = rest

/-- The step of every word in every state, and every step of the machine, ends in a next state (R120). -/
def Obligations.StepIsTotal : Prop :=
  (∀ (w : Word) (s : State), ∃ t, stepWord w s = .next t) ∧ ∀ s : State, ∃ t, step s = .next t

/-- In ERROR only NOP, QUERY and ABORT have an effect; every other word is discarded (R121). -/
def Obligations.ErrorStateFiltersWords : Prop :=
  ∀ (s : State) (w : Word), s.mode = .error →
    (w = 0x00000000#32 → stepWord w s = .next s) ∧
    (w = 0xF0000000#32 → stepWord w s = .next { s with
      rsp := s.rsp ++ [0xF0#8 ++ (s.errCode ++ (s.errOp ++ (0#5 ++ 4#3)))] }) ∧
    (w = 0xFF000000#32 → stepWord w s = .next { s with
      pixCount := 0#32, glyphs := [], errCode := 0#8, errOp := 0#8, mode := .idle, rsp := s.rsp ++ [0xFF000000#32] }) ∧
    (w ≠ 0x00000000#32 → w ≠ 0xF0000000#32 → w ≠ 0xFF000000#32 → stepWord w s = .next s)

/-- With nothing offered the block waits and keeps everything (R294), and so it does in reset while words alone are offered
(R320; events as a list are the model's, log entry 1). -/
def Obligations.WaitingKeepsEverything : Prop :=
  ∀ s : State, (s.inbox = [] → step s = .next s) ∧
    ∀ ws : List Word, s.rstN = false → s.inbox = ws.map .command → step s = .next s

/-- Out of reset a consumer that is ready takes the first byte of OUT not yet taken, and nothing else changes; with none
left, or in reset, nothing is taken (R41, R44, R320; the count of what was taken is the model's field, log entries 1
and 2). -/
def Obligations.ConsumerTakesBytesInOrder : Prop :=
  ∀ (s : State) (rest : List HostEvent), s.inbox = .takeByte :: rest →
    (s.rstN = true → ∀ x, s.out[s.outTaken]? = some x →
      ∃ t, step s = .next t ∧ t = { s with inbox := rest, outTaken := s.outTaken + 1 } ∧
        outReceived t = outReceived s ++ [x]) ∧
    (s.rstN = false ∨ s.out[s.outTaken]? = none → step s = .next { s with inbox := rest })

/-- The same of a host that is ready for a response (R42, R320; log entries 1 and 2). -/
def Obligations.HostTakesResponsesInOrder : Prop :=
  ∀ (s : State) (rest : List HostEvent), s.inbox = .takeResponse :: rest →
    (s.rstN = true → ∀ x, s.rsp[s.rspTaken]? = some x →
      step s = .next { s with inbox := rest, rspTaken := s.rspTaken + 1 } ∧
        s.rsp.take (s.rspTaken + 1) = s.rsp.take s.rspTaken ++ [x]) ∧
    (s.rstN = false ∨ s.rsp[s.rspTaken]? = none → step s = .next { s with inbox := rest })

/-- Asserting reset puts every register at its reset value (R46), discards what has not been taken (R321) and holds the block
in reset (R320); the configuration stays (R323). The rest is the model's: that OUT and RSP become empty, what was taken of
them included (DEDUCED, log entry 2), that both counts of what was taken return to 0 (DESIGN CHOICE, log entry 2), that the
list of events stays and the words offered before the event do not stand in its way (log entry 1), the position 0 (log entry
3) and the empty PIXBUF (log entry 5). -/
def Obligations.ResetClearsEverything : Prop :=
  ∀ (s : State) (ws : List Word) (rest : List HostEvent), s.inbox = ws.map .command ++ .assertReset :: rest →
    (s.rstN = true → ws = []) →
    step s = .next ⟨s.cfg, .idle, 0, 0, 0, 0, 0, 0, 0, 0, 0, [], 0, 0, [], [], [], 0, 0, 0, false,
      ws.map .command ++ rest⟩

/-- While `rst_n` is 0 the block is not ready for a word and offers no byte and no response (R46, R320); and from the state
that asserting reset leaves, whatever the environment does next, the step takes no word and leaves every register at its
reset value and both streams empty, until release. That a word offered stays offered (R40) while other events happen is the
model's list (log entry 1); that in reset both streams are empty as a whole, the counts and the position 0 and PIXBUF lists
nothing is the model's too (log entries 2, 3 and 5). -/
def Obligations.ResetHoldsTheBlock : Prop :=
  (∀ s : State, s.rstN = false → cmdReady s = false ∧ outOffered s = none ∧ rspOffered s = none) ∧
  ∀ (cfg : Params) (events : List HostEvent), ∃ (level : Bool) (events' : List HostEvent),
    step ⟨cfg, .idle, 0, 0, 0, 0, 0, 0, 0, 0, 0, [], 0, 0, [], [], [], 0, 0, 0, false, events⟩ =
      .next ⟨cfg, .idle, 0, 0, 0, 0, 0, 0, 0, 0, 0, [], 0, 0, [], [], [], 0, 0, 0, level, events'⟩ ∧
    wordsOffered events' = wordsOffered events

/-- Releasing reset changes the level alone, and then the first word offered is taken as the first step of a new run
(R320); the events are the model's list (log entry 1), and that `cmd_ready` is 1 whenever `rst_n` is 1 is the untimed
model's (log entry 9). -/
def Obligations.ReleaseStartsRun : Prop :=
  ∀ (s : State) (ws : List Word) (rest : List HostEvent), s.rstN = false →
    s.inbox = ws.map .command ++ .releaseReset :: rest →
    ∃ t, step s = .next t ∧ t = { s with rstN := true, inbox := ws.map .command ++ rest } ∧ cmdReady t = true ∧
      ∀ w ws', ws = w :: ws' → step t = stepWord w { t with inbox := ws'.map .command ++ rest, pos := t.pos + 1 }

/-- The reset values of R46, and what a QUERY and the two levels then show. That `rst_n` is released in the reset state is the
model's (DEDUCED from R320, log entry 2). -/
def Obligations.ResetValues : Prop :=
  State.reset.mode = .idle ∧ State.reset.w = 0#16 ∧ State.reset.h = 0#16 ∧ State.reset.iw = 0#16 ∧
  State.reset.ih = 0#16 ∧ State.reset.colors = 0#9 ∧ State.reset.bpp = 0#4 ∧ State.reset.pixCount = 0#32 ∧
  State.reset.fbpp = 0#4 ∧ State.reset.fh = 0#16 ∧ State.reset.glyphs = [] ∧ State.reset.errCode = 0#8 ∧
  State.reset.errOp = 0#8 ∧ State.reset.rstN = true ∧ errO State.reset = false ∧ stateO State.reset = 0#3 ∧
  exec .query State.reset = .next { State.reset with rsp := [0xF0000000#32] }

/-- The number of each mode on `state_o`, and `err_o` is 1 exactly in ERROR (R20, R43). -/
def Obligations.LevelsShowState : Prop :=
  ∀ s : State,
    (s.mode = .idle → stateO s = 0#3) ∧ (s.mode = .img → stateO s = 1#3) ∧ (s.mode = .font → stateO s = 2#3) ∧
    (s.mode = .glyph → stateO s = 3#3) ∧ (s.mode = .error → stateO s = 4#3) ∧ (errO s = true ↔ s.mode = .error)

/-! ## Error entry, legality -/

/-- Error entry, whole (R283): what it records, what it drops, the response, and that nothing else changes. -/
def Obligations.ErrorEntryEffect : Prop :=
  ∀ (e : ErrorKind) (opc : Byte) (s : State),
    raiseError e opc s = { s with
      errCode := errorCode e, errOp := opc, pixCount := 0#32, glyphs := [], mode := .error,
      rsp := s.rsp ++ [opc ++ (errorCode e ++ 0#16)] } ∧
    errO (raiseError e opc s) = true

/-- The entries of R123's table that are not `ok`: each such command only enters ERROR with the error the table names. -/
def Obligations.IllegalCommandsRaise : Prop :=
  ∀ s : State,
    ((s.mode = .img ∨ s.mode = .font ∨ s.mode = .glyph) →
      (∀ c, exec (.imgBegin c) s = .next (errorEntry 0x04#8 0x10#8 s)) ∧
      (∀ n, exec (.fontBegin n) s = .next (errorEntry 0x04#8 0x20#8 s))) ∧
    ((s.mode = .idle ∨ s.mode = .font ∨ s.mode = .glyph) →
      (∀ r g b, exec (.pixel r g b) s = .next (errorEntry 0x04#8 0x11#8 s)) ∧
      exec .imgEnd s = .next (errorEntry 0x04#8 0x12#8 s)) ∧
    ((s.mode = .idle ∨ s.mode = .img) →
      (∀ c, exec (.glyphBegin c) s = .next (errorEntry 0x04#8 0x21#8 s)) ∧
      exec .fontEnd s = .next (errorEntry 0x04#8 0x23#8 s)) ∧
    ((s.mode = .idle ∨ s.mode = .img ∨ s.mode = .font) →
      ∀ v, exec (.sample v) s = .next (errorEntry 0x04#8 0x22#8 s)) ∧
    (s.mode = .glyph →
      (∀ c, exec (.glyphBegin c) s = .next (errorEntry 0x0B#8 0x21#8 s)) ∧
      exec .fontEnd s = .next (errorEntry 0x0B#8 0x23#8 s))

/-- A command that fails has no effect but error entry, whatever its form (R124, R284). -/
def Obligations.FailureIsOnlyErrorEntry : Prop :=
  ∀ (i : Instr) (s t : State), exec i s = .next t → s.mode ≠ .error → t.mode = .error →
    ∃ e : ErrorKind, t = errorEntry (errorCode e) i.opcode.code s

/-- ERROR is left only by ABORT, to IDLE with cleared error registers, or by reset (R286; the events are the
model's list, log entry 1). -/
def Obligations.ErrorIsLeftOnlyByAbortOrReset : Prop :=
  ∀ s t : State, s.mode = .error → step s = .next t → t.mode ≠ .error →
    t.mode = .idle ∧ t.errCode = 0#8 ∧ t.errOp = 0#8 ∧
    ((∃ rest, s.rstN = true ∧ s.inbox = .command 0xFF000000#32 :: rest ∧ t.w = s.w ∧ t.h = s.h) ∨
     (∃ (ws : List Word) (rest : List HostEvent), s.inbox = ws.map .command ++ .assertReset :: rest ∧
       (s.rstN = true → ws = [])))

/-! ## Control commands -/

/-- NOP leaves the state as it is, in every state (R260). -/
def Obligations.NopDoesNothing : Prop := ∀ s : State, exec .nop s = .next s

/-- SET_W writes `W` and SET_H writes `H`, and nothing else; in ERROR both are discarded (R261, R262). -/
def Obligations.SetCommandsWriteOneRegister : Prop :=
  ∀ (s : State) (v : BitVec 16),
    (s.mode ≠ .error → exec (.setW v) s = .next { s with w := v } ∧ exec (.setH v) s = .next { s with h := v }) ∧
    (s.mode = .error → exec (.setW v) s = .next s ∧ exec (.setH v) s = .next s)

/-- QUERY answers ERR_CODE, ERR_OP and the number of STATE (0 IDLE, 1 IMG, 2 FONT, 3 GLYPH, 4 ERROR) and changes nothing
else, in every state (R263, R20). -/
def Obligations.QueryAnswersStatus : Prop :=
  ∀ s : State,
    let number : BitVec 3 := match s.mode with
      | .idle => 0
      | .img => 1
      | .font => 2
      | .glyph => 3
      | .error => 4
    exec .query s = .next { s with rsp := s.rsp ++ [0xF0#8 ++ (s.errCode ++ (s.errOp ++ (0#5 ++ number)))] }

/-- ABORT drops the open asset, clears the error registers, keeps the rest and answers, in every state (R264). -/
def Obligations.AbortReturnsToIdle : Prop :=
  ∀ s : State, exec .abort s = .next { s with
    pixCount := 0#32, glyphs := [], errCode := 0#8, errOp := 0#8, mode := .idle, rsp := s.rsp ++ [0xFF000000#32] }

/-! ## Colours -/

/-- XCODE answers the byte-swapped `{R[7:3], G[7:2], B[7:3]}` and changes nothing else; in ERROR it is discarded
(R195, R190, R191). -/
def Obligations.XcodeAnswersWireColor : Prop :=
  ∀ (s : State) (r g b : Byte),
    (s.mode ≠ .error →
      let rgb : BitVec 16 := r.extractLsb' 3 5 ++ (g.extractLsb' 2 6 ++ b.extractLsb' 3 5)
      exec (.xcode r g b) s =
        .next { s with rsp := s.rsp ++ [0x30#8 ++ (0x00#8 ++ (rgb.extractLsb' 0 8 ++ rgb.extractLsb' 8 8))] }) ∧
    (s.mode = .error → exec (.xcode r g b) s = .next s)

/-- The RGB565 value, the wire value, and which colours share one: `rgb565` is `{R[7:3], G[7:2], B[7:3]}` (R190), the wire
value has its two bytes swapped (R191), and two colours have one wire value exactly when they agree in those fields (R194). -/
def Obligations.WireColorLosesExactlyLowBits : Prop :=
  ∀ p q : Rgb,
    rgb565 p = p.r.extractLsb' 3 5 ++ (p.g.extractLsb' 2 6 ++ p.b.extractLsb' 3 5) ∧
    wireColor p = (rgb565 p).extractLsb' 0 8 ++ (rgb565 p).extractLsb' 8 8 ∧
    (wireColor p = wireColor q ↔
      p.r.extractLsb' 3 5 = q.r.extractLsb' 3 5 ∧ p.g.extractLsb' 2 6 = q.g.extractLsb' 2 6 ∧
      p.b.extractLsb' 3 5 = q.b.extractLsb' 3 5)

/-- The valid colour counts are the nine powers of two from 1 to 256, and `bpp` of `2^k` is `k` (R140, R142). -/
def Obligations.ValidColorCounts : Prop :=
  (∀ c : Nat, validColors c = true ↔ c ∈ [1, 2, 4, 8, 16, 32, 64, 128, 256]) ∧ ∀ k : Nat, k ≤ 8 → bppOf (2 ^ k) = k

/-- Laws Q1 and Q2 hold of both quantization functions for every input of R143, and both read their arguments alone (Q3). -/
def Obligations.QuantizerLaws : Prop :=
  ∀ (q : QuantFn) (w h : Nat) (px : List Rgb) (c : Nat), px.length = w * h → validColors c = true →
    (quantize q w h px c).1.length = c ∧ (quantize q w h px c).2.length = w * h ∧
    ∀ v ∈ (quantize q w h px c).2, v < c

/-- REF_QUANT, palette and indices (R146): with `d` the distinct colours of the pixels in order of first appearance, entry
`j` of the palette of `c` entries is the `j`-th of them where there is one and black otherwise; each pixel gets the least
index of an entry equal to it, or else the least index of a nearest entry. -/
def Obligations.RefQuantPicksNearestEntry : Prop :=
  ∀ (px : List Rgb) (c : Nat), 1 ≤ c →
    (refQuant px c).1.length = c ∧ (refQuant px c).2.length = px.length ∧
    (∃ d : List Rgb, (∀ p, p ∈ d ↔ p ∈ px) ∧ d.Pairwise (fun p q => px.idxOf p < px.idxOf q) ∧
      ∀ j, j < c → (refQuant px c).1[j]? = some (d[j]?.getD ⟨0#8, 0#8, 0#8⟩)) ∧
    ∀ (k : Nat) (p : Rgb), px[k]? = some p →
      ∃ (j : Nat) (e : Rgb), (refQuant px c).2[k]? = some j ∧ (refQuant px c).1[j]? = some e ∧
        (p ∈ (refQuant px c).1 → e = p) ∧
        (∀ (j' : Nat) (e' : Rgb), (refQuant px c).1[j']? = some e' → colorDist e p ≤ colorDist e' p) ∧
        (∀ (j' : Nat) (e' : Rgb), j' < j → (refQuant px c).1[j']? = some e' → colorDist e p < colorDist e' p)

/-! ## Images -/

/-- IMG_BEGIN with a valid count and an image that fits opens the image, and changes nothing else (R147). -/
def Obligations.ImgBeginOpensImage : Prop :=
  ∀ (s : State) (c : BitVec 24) (k : Nat), s.mode = .idle → k ≤ 8 → c.toNat = 2 ^ k →
    s.w.toNat * s.h.toNat ≤ s.cfg.maxPixels.val →
    exec (.imgBegin c) s = .next { s with
      iw := s.w, ih := s.h, colors := BitVec.ofNat 9 (2 ^ k), bpp := BitVec.ofNat 4 k, pixCount := 0#32, mode := .img }

/-- IMG_BEGIN's own errors, the colour count before the capacity (R147, R287). -/
def Obligations.ImgBeginRejects : Prop :=
  ∀ (s : State) (c : BitVec 24), s.mode = .idle →
    (c.toNat ∉ [1, 2, 4, 8, 16, 32, 64, 128, 256] → exec (.imgBegin c) s = .next (errorEntry 0x01#8 0x10#8 s)) ∧
    (c.toNat ∈ [1, 2, 4, 8, 16, 32, 64, 128, 256] → s.cfg.maxPixels.val < s.w.toNat * s.h.toNat →
      exec (.imgBegin c) s = .next (errorEntry 0x06#8 0x10#8 s))

/-- PIXEL writes element `PIX_COUNT` of PIXBUF and counts; every other element reads as before and nothing else changes.
With all pixels given it raises E_PIXEL_COUNT (R148). -/
def Obligations.PixelWritesNextElement : Prop :=
  ∀ (s : State) (r g b : Byte), s.mode = .img →
    (s.pixCount.toNat ≠ s.iw.toNat * s.ih.toNat →
      ∃ t, exec (.pixel r g b) s = .next t ∧
        bufRead t.pixbuf s.pixCount.toNat = some ⟨r, g, b⟩ ∧
        (∀ k, k ≠ s.pixCount.toNat → bufRead t.pixbuf k = bufRead s.pixbuf k) ∧
        t = { s with pixbuf := t.pixbuf, pixCount := s.pixCount + 1#32 }) ∧
    (s.pixCount.toNat = s.iw.toNat * s.ih.toNat →
      exec (.pixel r g b) s = .next (errorEntry 0x05#8 0x11#8 s))

/-- IMG_END with every pixel given emits the container of the quantized image, closes the image, answers, and changes
nothing else; with another count it raises E_PIXEL_COUNT (R216). -/
def Obligations.ImgEndEmitsContainer : Prop :=
  ∀ s : State, s.mode = .img →
    (s.pixCount.toNat = s.iw.toNat * s.ih.toNat →
      ∃ pal idx,
        (pal, idx) = quantize s.cfg.quant s.iw.toNat s.ih.toNat
          ((List.range (s.iw.toNat * s.ih.toNat)).map (pixelAt s)) s.colors.toNat ∧
        exec .imgEnd s = .next { s with
          pixCount := 0#32, mode := .idle,
          out := s.out ++ markLast
            (imgContainer s.iw.toNat s.ih.toNat s.colors.toNat s.bpp.toNat pal idx),
          rsp := s.rsp ++ [0x12000000#32] }) ∧
    (s.pixCount.toNat ≠ s.iw.toNat * s.ih.toNat → exec .imgEnd s = .next (errorEntry 0x05#8 0x12#8 s))

/-- The layout of an IMG container: its length and every field at its offset (R211 to R214). That it says so of indices at or
above `2^k` too, which no container has, rests on the model's total `Bits` (DESIGN CHOICE, log entry 12). -/
def Obligations.ImgContainerLayout : Prop :=
  ∀ (iw ih k : Nat) (pal : List Rgb) (idx : List Nat), iw < 65536 → ih < 65536 → k ≤ 8 → pal.length = 2 ^ k →
    idx.length = iw * ih →
    let c := imgContainer iw ih (2 ^ k) k pal idx
    c.length = 6 + 2 * 2 ^ k + (iw * ih * k + 7) / 8 ∧ fieldAt c 0 2 = iw ∧ fieldAt c 2 2 = ih ∧
    byteAt c 4 = 2 ^ k % 256 ∧ byteAt c 5 = k ∧
    (∀ j p, pal[j]? = some p → fieldAt c (6 + 2 * j) 2 = (wireColor p).toNat) ∧
    c.drop (6 + 2 * 2 ^ k) = pack idx k

/-- A reader finds every pixel's index and every palette entry of an IMG container from the 6-byte header (R72). -/
def Obligations.ReaderFindsImagePixels : Prop :=
  ∀ (iw ih k : Nat) (pal : List Rgb) (idx : List Nat), iw < 65536 → ih < 65536 → k ≤ 8 → pal.length = 2 ^ k →
    idx.length = iw * ih → (∀ v ∈ idx, v < 2 ^ k) →
    let c := imgContainer iw ih (2 ^ k) k pal idx
    imgPaletteSize c = 2 ^ k ∧
    (∀ j p, pal[j]? = some p → imgPaletteEntry c j = (wireColor p).toNat) ∧
    ∀ x y, x < iw → y < ih → idx[y * iw + x]? = some (imgIndexAt c x y)

/-- The bytes an IMG_END appends depend on the configuration and the open image alone (R234). -/
def Obligations.ImageOutputDependsOnImageOnly : Prop :=
  ∀ s s' : State, s.mode = .img → s'.mode = .img → s.cfg = s'.cfg → s.iw = s'.iw → s.ih = s'.ih →
    s.colors = s'.colors → s.bpp = s'.bpp → s.pixCount = s'.pixCount →
    (∀ k, k < s.iw.toNat * s.ih.toNat → bufRead s.pixbuf k = bufRead s'.pixbuf k) →
    ∃ t t' bs, exec .imgEnd s = .next t ∧ exec .imgEnd s' = .next t' ∧
      t.out = s.out ++ bs ∧ t'.out = s'.out ++ bs

/-! ## Packing -/

/-- `Pack` has exactly `ceil(len·b / 8)` bytes (R173), none for `b` = 0 or for no elements (R177). That it says so of elements
at or above `2^b` too rests on the model's total `Bits` (DESIGN CHOICE, log entry 12). -/
def Obligations.PackLength : Prop :=
  (∀ (xs : List Nat) (b : Nat), pack xs b = toBytes (packBits xs b) ∧
    (pack xs b).length = (xs.length * b + 7) / 8) ∧
  (∀ xs : List Nat, packBits xs 0 = [] ∧ pack xs 0 = []) ∧ ∀ b : Nat, pack [] b = []

/-- Stream bit `s` of a packed bit string is its bit `s`, at bit `7 − (s mod 8)` of byte `s div 8`, and the padding bits of
the last byte are 0 (R66, R172). That a bit past the last byte reads as 0 is the model's (DEDUCED, log entry 11). -/
def Obligations.BitsFillBytesFromTheTop : Prop :=
  ∀ (bs : List Bool) (s : Nat), streamBit (toBytes bs) s = bs.getD s false

/-- Packing loses nothing (R178). -/
def Obligations.UnpackOfPack : Prop :=
  ∀ (xs : List Nat) (b k x : Nat), (∀ v ∈ xs, v < 2 ^ b) → xs[k]? = some x → unpack (pack xs b) b k = x

/-! ## Fonts -/

/-- FONT_BEGIN opens a font for 1 to 8 bits per sample, and raises E_BPP for every other operand (R228). -/
def Obligations.FontBeginOpensFont : Prop :=
  ∀ (s : State) (n : BitVec 24), s.mode = .idle →
    (1 ≤ n.toNat ∧ n.toNat ≤ 8 →
      exec (.fontBegin n) s =
        .next { s with fbpp := BitVec.ofNat 4 n.toNat, fh := s.h, glyphs := [], mode := .font }) ∧
    (n.toNat = 0 ∨ 8 < n.toNat → exec (.fontBegin n) s = .next (errorEntry 0x07#8 0x20#8 s))

/-- GLYPH_BEGIN with a scalar code above the last one, a width that fits and room for the glyph appends the glyph, and
changes nothing else but STATE (R229). -/
def Obligations.GlyphBeginAppendsGlyph : Prop :=
  ∀ (s : State) (c : BitVec 24), s.mode = .font →
    c.toNat ≤ 0x10FFFF → ¬ (0xD800 ≤ c.toNat ∧ c.toNat ≤ 0xDFFF) →
    (∀ g, s.glyphs.getLast? = some g → g.code.toNat < c.toNat) →
    (s.cfg.widthEntry = .one → s.w.toNat ≤ 255) →
    s.glyphs.length + 1 ≤ s.cfg.maxGlyphs.val →
    mapLen s.glyphs + utf8len c.toNat ≤ 65535 →
    sectionBits s.cfg.glyphByteAlign s.glyphs s.fh.toNat s.fbpp.toNat
      + padBits s.cfg.glyphByteAlign (s.w.toNat * s.fh.toNat * s.fbpp.toNat) ≤ s.cfg.maxGlyphBits.val →
    exec (.glyphBegin c) s = .next { s with
      glyphs := s.glyphs ++ [⟨BitVec.ofNat 21 c.toNat, s.w, []⟩],
      mode := if s.w.toNat * s.fh.toNat = 0 then .font else .glyph }

/-- GLYPH_BEGIN's own errors in their order: E_CHAR, E_CHAR_ORDER, E_GLYPH_WIDTH, E_CAPACITY (R229, R287). -/
def Obligations.GlyphBeginRejects : Prop :=
  ∀ (s : State) (c : BitVec 24), s.mode = .font →
    let scalar := c.toNat ≤ 0x10FFFF ∧ ¬ (0xD800 ≤ c.toNat ∧ c.toNat ≤ 0xDFFF)
    let ascends := ∀ g, s.glyphs.getLast? = some g → g.code.toNat < c.toNat
    let tooWide := s.cfg.widthEntry = .one ∧ 255 < s.w.toNat
    let noRoom := s.cfg.maxGlyphs.val < s.glyphs.length + 1 ∨ 65535 < mapLen s.glyphs + utf8len c.toNat ∨
      s.cfg.maxGlyphBits.val < sectionBits s.cfg.glyphByteAlign s.glyphs s.fh.toNat s.fbpp.toNat
        + padBits s.cfg.glyphByteAlign (s.w.toNat * s.fh.toNat * s.fbpp.toNat)
    (¬ scalar → exec (.glyphBegin c) s = .next (errorEntry 0x09#8 0x21#8 s)) ∧
    (scalar → ¬ ascends → exec (.glyphBegin c) s = .next (errorEntry 0x0A#8 0x21#8 s)) ∧
    (scalar → ascends → tooWide → exec (.glyphBegin c) s = .next (errorEntry 0x0C#8 0x21#8 s)) ∧
    (scalar → ascends → ¬ tooWide → noRoom → exec (.glyphBegin c) s = .next (errorEntry 0x06#8 0x21#8 s))

/-- SAMPLE appends a sample below `2^FBPP` to the last glyph, whose last sample returns STATE to FONT; a larger value
raises E_SAMPLE_RANGE (R230). -/
def Obligations.SampleExtendsOpenGlyph : Prop :=
  ∀ (s : State) (v : BitVec 24) (gs : List Glyph) (g : Glyph), s.mode = .glyph → s.glyphs = gs ++ [g] →
    (v.toNat < 2 ^ s.fbpp.toNat →
      exec (.sample v) s = .next { s with
        glyphs := gs ++ [{ g with samples := g.samples ++ [BitVec.ofNat 8 v.toNat] }],
        mode := if g.samples.length + 1 = g.width.toNat * s.fh.toNat then .font else .glyph }) ∧
    (2 ^ s.fbpp.toNat ≤ v.toNat → exec (.sample v) s = .next (errorEntry 0x08#8 0x22#8 s))

/-- FONT_END emits the font's container, closes the font, answers, and changes nothing else (R231). -/
def Obligations.FontEndEmitsContainer : Prop :=
  ∀ s : State, s.mode = .font →
    exec .fontEnd s = .next { s with
      glyphs := [], mode := .idle,
      out := s.out ++ markLast (fontContainer s.cfg s.glyphs s.fh.toNat s.fbpp.toNat),
      rsp := s.rsp ++ [0x23000000#32] }

/-- The UTF-8 bytes of a scalar value: the bytes of each of the four ranges of R222's table, their number, that they count
as one character, and the code they stand for (R222). Counting a character (R73) as a byte that does not continue one is
the model's (DEDUCED, log entry 11). -/
def Obligations.Utf8OfScalarValues : Prop :=
  ∀ code : Nat, scalarValue code = true →
    let c := BitVec.ofNat 21 code
    (code ≤ 0x7F → utf8 code = [c.setWidth 8]) ∧
    (0x80 ≤ code → code ≤ 0x7FF →
      utf8 code = [0xC0#8 ||| (c.extractLsb' 6 5).setWidth 8, 0x80#8 ||| (c.extractLsb' 0 6).setWidth 8]) ∧
    (0x800 ≤ code → code ≤ 0xFFFF →
      utf8 code = [0xE0#8 ||| (c.extractLsb' 12 4).setWidth 8, 0x80#8 ||| (c.extractLsb' 6 6).setWidth 8,
        0x80#8 ||| (c.extractLsb' 0 6).setWidth 8]) ∧
    (0x10000 ≤ code →
      utf8 code = [0xF0#8 ||| (c.extractLsb' 18 3).setWidth 8, 0x80#8 ||| (c.extractLsb' 12 6).setWidth 8,
        0x80#8 ||| (c.extractLsb' 6 6).setWidth 8, 0x80#8 ||| (c.extractLsb' 0 6).setWidth 8]) ∧
    (utf8 code).length = utf8len code ∧ utf8Count (utf8 code) = 1 ∧
    utf8Chars (utf8 code) = [utf8 code] ∧ utf8Value (utf8 code) = code

/-- The offset-entry width is the least number of bytes, at least 1, that holds every offset, and at most 4 (R224). -/
def Obligations.OffsetEntryWidthIsLeast : Prop :=
  ∀ (align : Bool) (gs : List Glyph) (fh b : Nat), sectionBits align gs fh b < 2 ^ 32 →
    let ob := offsetBytes align gs fh b
    1 ≤ ob ∧ ob ≤ 4 ∧ (∀ i, i < gs.length → glyphOffset align gs fh b i < 256 ^ ob) ∧
    (1 < ob → 256 ^ (ob - 1) ≤ maxOffset align gs fh b)

/-- The layout of a FONT container's header and its length (R217, R227); the field at 7 is the largest width, 0 for an empty
table (R221). Samples at or above `2^b` are let in by the model's total `Bits` (DESIGN CHOICE, log entry 12). -/
def Obligations.FontContainerLayout : Prop :=
  ∀ (cfg : Params) (gs : List Glyph) (fh b : Nat), fh < 65536 → b ≤ 8 → mapLen gs ≤ 65535 →
    sectionBits cfg.glyphByteAlign gs fh b < 2 ^ 32 →
    (∀ g ∈ gs, scalarValue g.code.toNat = true ∧ GlyphDone fh g) →
    let c := fontContainer cfg gs fh b
    let ob := offsetBytes cfg.glyphByteAlign gs fh b
    c.length = 12 + mapLen gs + (widthEntryBytes cfg.widthEntry + ob) * gs.length
      + (sectionBits cfg.glyphByteAlign gs fh b + 7) / 8 ∧
    c.take 4 = cfg.fontMagic.toList ∧ byteAt c 4 = b ∧ fieldAt c 5 2 = fh ∧ fieldAt c 7 2 = maxWidth gs ∧
    (∀ g ∈ gs, g.width.toNat ≤ fieldAt c 7 2) ∧ (gs ≠ [] → ∃ g ∈ gs, g.width.toNat = fieldAt c 7 2) ∧
    (gs = [] → fieldAt c 7 2 = 0) ∧
    byteAt c 9 = ob ∧ fieldAt c 10 2 = mapLen gs ∧ fontMapOf c = gs.flatMap (fun g => utf8 g.code.toNat)

/-- A reader finds the number of glyphs, each glyph's width, its offset and each sample of a FONT container from the header,
the map and the two tables (R73). The offset is the sum of what the earlier glyphs take: `width·FH·b` bits each with
`GLYPH_BYTE_ALIGN` = false, that rounded up to whole bytes with true (R179). That the characters of the map are counted as
the bytes that do not continue one is DEDUCED from R222 (log entry 11). -/
def Obligations.ReaderFindsGlyphSamples : Prop :=
  ∀ (cfg : Params) (gs : List Glyph) (fh b : Nat), fh < 65536 → b ≤ 8 → mapLen gs ≤ 65535 →
    sectionBits cfg.glyphByteAlign gs fh b < 2 ^ 32 →
    (∀ g ∈ gs, scalarValue g.code.toNat = true ∧ GlyphDone fh g ∧ ∀ v ∈ g.samples, v.toNat < 2 ^ b) →
    (cfg.widthEntry = .one → ∀ g ∈ gs, g.width.toNat ≤ 255) →
    let c := fontContainer cfg gs fh b
    let wb := widthEntryBytes cfg.widthEntry
    let need := fun x : Glyph => x.width.toNat * fh * b
    fontGlyphCount c = gs.length ∧
    ∀ i g, gs[i]? = some g →
      fontWidthOf wb c i = g.width.toNat ∧
      fontOffsetOf wb c i = glyphOffset cfg.glyphByteAlign gs fh b i ∧
      (cfg.glyphByteAlign = false → fontOffsetOf wb c i = ((gs.take i).map need).sum) ∧
      (cfg.glyphByteAlign = true → fontOffsetOf wb c i = ((gs.take i).map (fun x => 8 * ((need x + 7) / 8))).sum) ∧
      ∀ j v, g.samples[j]? = some v → fontSampleOf wb c i j = v.toNat

/-- A reader finds the characters of a FONT container's map, the glyph of a character (in a table with ascending codes,
R229) and none for a character without a glyph, and each glyph's bitmap: its length, where it starts, and its bits (R73).
That a byte which does not continue a character begins one is DEDUCED from R222 (log entry 11); samples at or above `2^b` are
let in by the model's total `Bits` (DESIGN CHOICE, log entry 12). -/
def Obligations.ReaderFindsGlyphOfCharacter : Prop :=
  ∀ (cfg : Params) (gs : List Glyph) (fh b : Nat), fh < 65536 → b ≤ 8 → mapLen gs ≤ 65535 →
    sectionBits cfg.glyphByteAlign gs fh b < 2 ^ 32 →
    (∀ g ∈ gs, scalarValue g.code.toNat = true ∧ GlyphDone fh g) →
    (cfg.widthEntry = .one → ∀ g ∈ gs, g.width.toNat ≤ 255) →
    let c := fontContainer cfg gs fh b
    let wb := widthEntryBytes cfg.widthEntry
    let off := glyphOffset cfg.glyphByteAlign gs fh b
    fontCharsOf c = gs.map (fun g => g.code.toNat) ∧
    (gs.Pairwise (fun g g' => g.code.toNat < g'.code.toNat) →
      ∀ i g, gs[i]? = some g → fontGlyphOf c g.code.toNat = some i) ∧
    (∀ code, (∀ g ∈ gs, g.code.toNat ≠ code) → fontGlyphOf c code = none) ∧
    ∀ i g, gs[i]? = some g →
      fontBitmapBits wb c i = g.width.toNat * fh * b ∧
      fontBitmapStart wb c i =
        (12 + mapLen gs + (wb + offsetBytes cfg.glyphByteAlign gs fh b) * gs.length + off i / 8, 7 - off i % 8) ∧
      fontBitmapOf wb c i = packBits (g.samples.map BitVec.toNat) b ∧
      ∀ x, (fontBitmapOf wb c i)[0]? = some x →
        x = (c.getD (fontBitmapStart wb c i).1 0#8).getLsbD (fontBitmapStart wb c i).2

/-! ## What the whole machine keeps -/

/-- An emitted container carries its bytes in order, its last byte marked and no other; an IMG container with a palette
has at least 8 bytes and a FONT container at least 12 (R232). That it says so of arguments no run gives too rests on the
model's total functions (DESIGN CHOICE, log entry 12). -/
def Obligations.EmissionMarksLastByteOnly : Prop :=
  (∀ bs : List Byte, (markLast bs).map Prod.fst = bs ∧
    ∀ (i : Nat) (x : Byte × Bool), (markLast bs)[i]? = some x → (x.2 = true ↔ i + 1 = bs.length)) ∧
  (∀ (iw ih c b : Nat) (pal : List Rgb) (idx : List Nat), 1 ≤ pal.length →
    8 ≤ (imgContainer iw ih c b pal idx).length) ∧
  ∀ (cfg : Params) (gs : List Glyph) (fh b : Nat), 12 ≤ (fontContainer cfg gs fh b).length

/-- Each register is written by no command but those its writer list names: R21 to R25, R28, R29 and R31, and for STATE
(R20) the commands whose rules write it; error entry, which 10_state.md lists beside them for PIX_COUNT, GLYPHS, ERR_CODE,
ERR_OP and STATE, is set apart as `entered`. An element of PIXBUF is written by PIXEL alone (R60); that one which nothing
has written reads as none is the model's (log entry 5). No command writes the configuration (R323), the position, the level
of `rst_n`, the inbox or the counts of what was taken (the fields other than that level are the model's, log entries 1
to 4). -/
def Obligations.RegisterWriters : Prop :=
  ∀ (i : Instr) (s t : State), exec i s = .next t →
    let entered := s.mode ≠ .error ∧ t.mode = .error
    (i.opcode ≠ .setW → t.w = s.w) ∧ (i.opcode ≠ .setH → t.h = s.h) ∧
    (i.opcode ≠ .imgBegin → t.iw = s.iw ∧ t.ih = s.ih ∧ t.colors = s.colors ∧ t.bpp = s.bpp) ∧
    (i.opcode ≠ .fontBegin → t.fbpp = s.fbpp ∧ t.fh = s.fh) ∧
    (i.opcode ≠ .pixel → ∀ k, bufRead t.pixbuf k = bufRead s.pixbuf k) ∧
    (¬ entered → i.opcode ∉ [.imgBegin, .pixel, .imgEnd, .abort] → t.pixCount = s.pixCount) ∧
    (¬ entered → i.opcode ∉ [.fontBegin, .glyphBegin, .sample, .fontEnd, .abort] → t.glyphs = s.glyphs) ∧
    (¬ entered → i.opcode ≠ .abort → t.errCode = s.errCode ∧ t.errOp = s.errOp) ∧
    (¬ entered → i.opcode ∉ [.imgBegin, .imgEnd, .fontBegin, .glyphBegin, .sample, .fontEnd, .abort] →
      t.mode = s.mode) ∧
    t.cfg = s.cfg ∧ t.pos = s.pos ∧ t.rstN = s.rstN ∧ t.inbox = s.inbox ∧ t.outTaken = s.outTaken ∧ t.rspTaken = s.rspTaken

/-- Only a successful IMG_END or FONT_END appends to OUT, and then exactly one whole container; nothing in OUT is changed
(R44, R233). -/
def Obligations.OnlyEndCommandsEmit : Prop :=
  ∀ (i : Instr) (s t : State), exec i s = .next t →
    t.out = s.out ∨
    (i = .imgEnd ∧ s.mode = .img ∧ t.mode = .idle ∧ t.out = s.out ++ markLast (openImage s)) ∨
    (i = .fontEnd ∧ s.mode = .font ∧ t.mode = .idle ∧ t.out = s.out ++ markLast (openFont s))

/-- A command appends at most one response, with its own opcode byte, and a status that is 0, or the code of the error it
entered, or what QUERY reports (R45, R125, R126). -/
def Obligations.ResponsesOfCommands : Prop :=
  ∀ (i : Instr) (s t : State), exec i s = .next t →
    t.rsp = s.rsp ∨
    ∃ (st : Byte) (pl : BitVec 16), t.rsp = s.rsp ++ [i.opcode.code ++ (st ++ pl)] ∧
      ((i ∈ [.imgEnd, .fontEnd, .abort] ∧ st = 0#8 ∧ pl = 0#16) ∨
       (∃ r g b, i = .xcode r g b ∧ st = 0#8 ∧ pl = wireColor ⟨r, g, b⟩) ∨
       (i = .query ∧ st = s.errCode ∧ pl = s.errOp ++ (0#5 ++ stateO s)) ∨
       (s.mode ≠ .error ∧ t.mode = .error ∧ t.errCode = st ∧ t.errOp = i.opcode.code ∧ pl = 0#16))

/-- The FIFO depths are unobservable: changing them changes no command's result (R34). -/
def Obligations.FifoDepthsAreUnobservable : Prop :=
  ∀ (i : Instr) (s t : State) (a b c : PNat), exec i s = .next t →
    exec i { s with cfg := { s.cfg with cmdFifoDepth := a, outFifoDepth := b, rspFifoDepth := c } } =
      .next { t with cfg := { s.cfg with cmdFifoDepth := a, outFifoDepth := b, rspFifoDepth := c } }

/-- After reset the invariant holds. Its clauses on PIXBUF's form, on what was taken and on held reset rest on the model's
reset state (log entries 2, 3 and 5). -/
def Obligations.ResetMeetsInvariant : Prop := BlockInvariant State.reset

/-- Every step keeps the invariant: the buffer's form, the error registers (R31, R280), what is dropped with an asset (R25,
R29), what an open image (R24, R147, R148) and an open font (R28, R174, R229, R230) are, OUT ending in a container's last
byte (R233), no more taken than the ports offer (R41, R42), and the reset values while reset is held (R320). The model's
among its clauses are: PIXBUF's form and that it lists nothing in reset (log entry 5); the counts of what was taken, that
reset empties OUT and RSP, and that those counts are 0 in reset (log entry 2); that the position is 0 in reset (log entry
3); that ERR_OP is 0 outside ERROR (log entry 8). -/
def Obligations.StepKeepsInvariant : Prop := ∀ s t : State, BlockInvariant s → step s = .next t → BlockInvariant t

/-- Every step keeps the error registers in agreement with STATE (R31), and ERR_CODE a code of R280, from every state in
which they are so. That ERR_OP is 0 outside ERROR is the model's (DEDUCED, log entry 8). -/
def Obligations.StepKeepsErrorRegisters : Prop :=
  ∀ s t : State, ErrorRegisters s → step s = .next t → ErrorRegisters t

/-- Every step keeps OUT empty or ending in a byte marked last: a command emits a whole container or nothing (R233). R233
excepts a reset in the middle of a transfer (R321), of which State shows nothing: the step of a reset keeps this because the
model empties OUT, and the run of bytes without a mark that a consumer may then hold is not in State (DEDUCED, log entry 2,
unsafe for what the consumer holds across a reset). -/
def Obligations.StepKeepsOutputWhole : Prop :=
  ∀ s t : State, WholeOutput s → step s = .next t → WholeOutput t

/-! ## The bitmap section -/

/-- The bitmap section of a font (R179): what PadBits does with either value of GLYPH_BYTE_ALIGN, the offsets as R179's
recursion gives them, the section's bits as their sum, and for complete glyphs the bytes: with false the samples of all
glyphs packed as one sequence, with true each glyph packed by itself, one after another. Samples at or above `2^b` are let in
by the model's total `Bits` (DESIGN CHOICE, log entry 12). -/
def Obligations.GlyphSectionOfTable : Prop :=
  ∀ (gs : List Glyph) (fh b : Nat),
    let need := fun g : Glyph => g.width.toNat * fh * b
    (∀ n, padBits false n = n ∧ padBits true n = 8 * ((n + 7) / 8)) ∧
    (∀ align, glyphOffset align gs fh b 0 = 0 ∧
      (∀ i g, gs[i]? = some g →
        glyphOffset align gs fh b (i + 1) = glyphOffset align gs fh b i + padBits align (need g)) ∧
      sectionBits align gs fh b = (gs.map (fun g => padBits align (need g))).sum) ∧
    ((∀ g ∈ gs, GlyphDone fh g) →
      glyphSection false gs fh b = pack (gs.flatMap (fun g => g.samples.map BitVec.toNat)) b ∧
      glyphSection true gs fh b = gs.flatMap (fun g => pack (g.samples.map BitVec.toNat) b))
end

