-- ==== Sys2Proof/Laws/AddressMap.lean ====
section
/-! SUPPORT. What splitting a UTF-8 byte string into characters does, said once. -/

namespace Sys2Proof.Machine

/-- A byte and the bytes that continue it are one character, up to the next byte that begins one. -/
theorem utf8Chars_append (b : Byte) (tail rest : List Byte) (ht : ∀ x ∈ tail, utf8Continues x = true)
    (hr : ∀ x, rest.head? = some x → utf8Continues x = false) :
    utf8Chars (b :: tail ++ rest) = (b :: tail) :: utf8Chars rest := by
  induction tail generalizing b with
  | nil => cases rest with
    | nil => rfl
    | cons c t => simp [utf8Chars, hr c rfl]
  | cons t ts ih =>
    have h := ih t (fun x hx => ht x (by simp [hx]))
    rw [List.cons_append] at h
    simp [utf8Chars, ht t (by simp), h]

/-- The characters of the map are as many as the glyphs counted in it. -/
theorem fontCharsOf_length (c : List Byte) : (fontCharsOf c).length = fontGlyphCount c := by
  simp [fontCharsOf, fontGlyphCount, utf8Count]

end Sys2Proof.Machine
end

