-- ==== Sys2Proof/Laws/Memory.lean ====
section
/-! SUPPORT. The laws of PIXBUF: a read after a write, and the canonical form that every operation on it keeps. -/

namespace Sys2Proof.Machine

@[simp] theorem bufRead_nil (k : Nat) : bufRead [] k = none := rfl

theorem bufRead_cons (j k : Nat) (u : Rgb) (m : Memory) :
    bufRead ((j, u) :: m) k = if j = k then some u else bufRead m k := rfl

/-- A read of the element written gives the value written. -/
@[simp] theorem bufRead_bufWrite_same (m : Memory) (k : Nat) (v : Rgb) : bufRead (bufWrite m k v) k = some v := by
  induction m with
  | nil => simp [bufWrite, bufRead_cons]
  | cons a rest ih =>
    obtain ⟨j, u⟩ := a
    unfold bufWrite
    split
    · simp [bufRead_cons]
    · split
      · simp [bufRead_cons]
      · rename_i h
        rw [bufRead_cons, if_neg (fun e => h e.symm), ih]

/-- A write leaves every other element as it was. -/
theorem bufRead_bufWrite_other (m : Memory) {k a : Nat} (v : Rgb) (h : a ≠ k) :
    bufRead (bufWrite m k v) a = bufRead m a := by
  induction m with
  | nil => simp [bufWrite, bufRead_cons, h.symm]
  | cons c rest ih =>
    obtain ⟨j, u⟩ := c
    unfold bufWrite
    split
    · rw [bufRead_cons, if_neg h.symm]
    · split
      · rename_i hk
        subst hk
        rw [bufRead_cons, bufRead_cons, if_neg h.symm, if_neg h.symm]
      · rw [bufRead_cons, bufRead_cons, ih]

/-- The ordinals a write leaves listed are those listed before and the one written. -/
theorem mem_bufWrite {m : Memory} {k : Nat} {v : Rgb} {x : Nat × Rgb} (h : x ∈ bufWrite m k v) : x = (k, v) ∨ x ∈ m := by
  induction m with
  | nil => simpa [bufWrite] using h
  | cons c rest ih =>
    obtain ⟨j, u⟩ := c
    unfold bufWrite at h
    split at h
    · simpa using h
    · split at h
      · rcases List.mem_cons.mp h with h | h
        · exact .inl h
        · exact .inr (List.mem_cons_of_mem _ h)
      · rcases List.mem_cons.mp h with h | h
        · exact .inr (h ▸ List.mem_cons_self)
        · exact (ih h).imp_right (List.mem_cons_of_mem _)

/-- A write keeps the canonical form. -/
theorem bufWrite_wf {m : Memory} (k : Nat) (v : Rgb) (h : Memory.wf m) : Memory.wf (bufWrite m k v) := by
  induction m with
  | nil => simp [bufWrite, Memory.wf]
  | cons c rest ih =>
    obtain ⟨j, u⟩ := c
    obtain ⟨hj, hr⟩ := List.pairwise_cons.mp h
    unfold bufWrite
    split
    · rename_i hk
      refine List.pairwise_cons.mpr ⟨fun a ha => ?_, h⟩
      rcases List.mem_cons.mp ha with rfl | ha
      · exact hk
      · exact Nat.lt_trans hk (hj a ha)
    · split
      · rename_i hk
        subst hk
        exact List.pairwise_cons.mpr ⟨hj, hr⟩
      · rename_i h1 h2
        refine List.pairwise_cons.mpr ⟨fun a ha => ?_, ih hr⟩
        rcases mem_bufWrite ha with rfl | ha
        · exact Nat.lt_of_le_of_ne (Nat.le_of_not_lt h1) (fun e => h2 e.symm)
        · exact hj a ha

/-- After reset the buffer has its canonical form. -/
theorem reset_memory_wf (cfg : Params) : Memory.wf (State.resetWith cfg).pixbuf := List.Pairwise.nil

end Sys2Proof.Machine
end

