-- ==== Sys2Proof/Laws/State.lean ====
section
/-! SUPPORT. What each shared update of the state does to each field, one lemma a field, so that no proof unfolds a record
update. -/

namespace Sys2Proof.Machine

section respond
variable (opc st : Byte) (pl : BitVec 16) (s : State)

@[simp] theorem respond_cfg : (respond opc st pl s).cfg = s.cfg := rfl
@[simp] theorem respond_mode : (respond opc st pl s).mode = s.mode := rfl
@[simp] theorem respond_w : (respond opc st pl s).w = s.w := rfl
@[simp] theorem respond_h : (respond opc st pl s).h = s.h := rfl
@[simp] theorem respond_iw : (respond opc st pl s).iw = s.iw := rfl
@[simp] theorem respond_ih : (respond opc st pl s).ih = s.ih := rfl
@[simp] theorem respond_colors : (respond opc st pl s).colors = s.colors := rfl
@[simp] theorem respond_bpp : (respond opc st pl s).bpp = s.bpp := rfl
@[simp] theorem respond_pixCount : (respond opc st pl s).pixCount = s.pixCount := rfl
@[simp] theorem respond_fbpp : (respond opc st pl s).fbpp = s.fbpp := rfl
@[simp] theorem respond_fh : (respond opc st pl s).fh = s.fh := rfl
@[simp] theorem respond_glyphs : (respond opc st pl s).glyphs = s.glyphs := rfl
@[simp] theorem respond_errCode : (respond opc st pl s).errCode = s.errCode := rfl
@[simp] theorem respond_errOp : (respond opc st pl s).errOp = s.errOp := rfl
@[simp] theorem respond_pixbuf : (respond opc st pl s).pixbuf = s.pixbuf := rfl
@[simp] theorem respond_out : (respond opc st pl s).out = s.out := rfl
@[simp] theorem respond_rsp : (respond opc st pl s).rsp = s.rsp ++ [responseWord opc st pl] := rfl
@[simp] theorem respond_outTaken : (respond opc st pl s).outTaken = s.outTaken := rfl
@[simp] theorem respond_rspTaken : (respond opc st pl s).rspTaken = s.rspTaken := rfl
@[simp] theorem respond_pos : (respond opc st pl s).pos = s.pos := rfl
@[simp] theorem respond_rstN : (respond opc st pl s).rstN = s.rstN := rfl
@[simp] theorem respond_inbox : (respond opc st pl s).inbox = s.inbox := rfl

end respond

section emit
variable (bs : List Byte) (s : State)

@[simp] theorem emit_cfg : (emit bs s).cfg = s.cfg := rfl
@[simp] theorem emit_mode : (emit bs s).mode = s.mode := rfl
@[simp] theorem emit_w : (emit bs s).w = s.w := rfl
@[simp] theorem emit_h : (emit bs s).h = s.h := rfl
@[simp] theorem emit_iw : (emit bs s).iw = s.iw := rfl
@[simp] theorem emit_ih : (emit bs s).ih = s.ih := rfl
@[simp] theorem emit_colors : (emit bs s).colors = s.colors := rfl
@[simp] theorem emit_bpp : (emit bs s).bpp = s.bpp := rfl
@[simp] theorem emit_pixCount : (emit bs s).pixCount = s.pixCount := rfl
@[simp] theorem emit_fbpp : (emit bs s).fbpp = s.fbpp := rfl
@[simp] theorem emit_fh : (emit bs s).fh = s.fh := rfl
@[simp] theorem emit_glyphs : (emit bs s).glyphs = s.glyphs := rfl
@[simp] theorem emit_errCode : (emit bs s).errCode = s.errCode := rfl
@[simp] theorem emit_errOp : (emit bs s).errOp = s.errOp := rfl
@[simp] theorem emit_pixbuf : (emit bs s).pixbuf = s.pixbuf := rfl
@[simp] theorem emit_out : (emit bs s).out = s.out ++ markLast bs := rfl
@[simp] theorem emit_rsp : (emit bs s).rsp = s.rsp := rfl
@[simp] theorem emit_outTaken : (emit bs s).outTaken = s.outTaken := rfl
@[simp] theorem emit_rspTaken : (emit bs s).rspTaken = s.rspTaken := rfl
@[simp] theorem emit_pos : (emit bs s).pos = s.pos := rfl
@[simp] theorem emit_rstN : (emit bs s).rstN = s.rstN := rfl
@[simp] theorem emit_inbox : (emit bs s).inbox = s.inbox := rfl

end emit

section raiseError
variable (e : ErrorKind) (opc : Byte) (s : State)

@[simp] theorem raiseError_cfg : (raiseError e opc s).cfg = s.cfg := rfl
@[simp] theorem raiseError_mode : (raiseError e opc s).mode = .error := rfl
@[simp] theorem raiseError_w : (raiseError e opc s).w = s.w := rfl
@[simp] theorem raiseError_h : (raiseError e opc s).h = s.h := rfl
@[simp] theorem raiseError_iw : (raiseError e opc s).iw = s.iw := rfl
@[simp] theorem raiseError_ih : (raiseError e opc s).ih = s.ih := rfl
@[simp] theorem raiseError_colors : (raiseError e opc s).colors = s.colors := rfl
@[simp] theorem raiseError_bpp : (raiseError e opc s).bpp = s.bpp := rfl
@[simp] theorem raiseError_pixCount : (raiseError e opc s).pixCount = 0#32 := rfl
@[simp] theorem raiseError_fbpp : (raiseError e opc s).fbpp = s.fbpp := rfl
@[simp] theorem raiseError_fh : (raiseError e opc s).fh = s.fh := rfl
@[simp] theorem raiseError_glyphs : (raiseError e opc s).glyphs = [] := rfl
@[simp] theorem raiseError_errCode : (raiseError e opc s).errCode = errorCode e := rfl
@[simp] theorem raiseError_errOp : (raiseError e opc s).errOp = opc := rfl
@[simp] theorem raiseError_pixbuf : (raiseError e opc s).pixbuf = s.pixbuf := rfl
@[simp] theorem raiseError_out : (raiseError e opc s).out = s.out := rfl
@[simp] theorem raiseError_rsp : (raiseError e opc s).rsp = s.rsp ++ [responseWord opc (errorCode e) 0#16] := rfl
@[simp] theorem raiseError_outTaken : (raiseError e opc s).outTaken = s.outTaken := rfl
@[simp] theorem raiseError_rspTaken : (raiseError e opc s).rspTaken = s.rspTaken := rfl
@[simp] theorem raiseError_pos : (raiseError e opc s).pos = s.pos := rfl
@[simp] theorem raiseError_rstN : (raiseError e opc s).rstN = s.rstN := rfl
@[simp] theorem raiseError_inbox : (raiseError e opc s).inbox = s.inbox := rfl

end raiseError

section leaveError
variable (s : State)

@[simp] theorem leaveError_cfg : (leaveError s).cfg = s.cfg := rfl
@[simp] theorem leaveError_mode : (leaveError s).mode = .idle := rfl
@[simp] theorem leaveError_w : (leaveError s).w = s.w := rfl
@[simp] theorem leaveError_h : (leaveError s).h = s.h := rfl
@[simp] theorem leaveError_iw : (leaveError s).iw = s.iw := rfl
@[simp] theorem leaveError_ih : (leaveError s).ih = s.ih := rfl
@[simp] theorem leaveError_colors : (leaveError s).colors = s.colors := rfl
@[simp] theorem leaveError_bpp : (leaveError s).bpp = s.bpp := rfl
@[simp] theorem leaveError_pixCount : (leaveError s).pixCount = 0#32 := rfl
@[simp] theorem leaveError_fbpp : (leaveError s).fbpp = s.fbpp := rfl
@[simp] theorem leaveError_fh : (leaveError s).fh = s.fh := rfl
@[simp] theorem leaveError_glyphs : (leaveError s).glyphs = [] := rfl
@[simp] theorem leaveError_errCode : (leaveError s).errCode = 0#8 := rfl
@[simp] theorem leaveError_errOp : (leaveError s).errOp = 0#8 := rfl
@[simp] theorem leaveError_pixbuf : (leaveError s).pixbuf = s.pixbuf := rfl
@[simp] theorem leaveError_out : (leaveError s).out = s.out := rfl
@[simp] theorem leaveError_rsp : (leaveError s).rsp = s.rsp := rfl
@[simp] theorem leaveError_outTaken : (leaveError s).outTaken = s.outTaken := rfl
@[simp] theorem leaveError_rspTaken : (leaveError s).rspTaken = s.rspTaken := rfl
@[simp] theorem leaveError_pos : (leaveError s).pos = s.pos := rfl
@[simp] theorem leaveError_rstN : (leaveError s).rstN = s.rstN := rfl
@[simp] theorem leaveError_inbox : (leaveError s).inbox = s.inbox := rfl

end leaveError

section acceptWord
variable (s : State)

@[simp] theorem acceptWord_cfg : (acceptWord s).cfg = s.cfg := rfl
@[simp] theorem acceptWord_mode : (acceptWord s).mode = s.mode := rfl
@[simp] theorem acceptWord_w : (acceptWord s).w = s.w := rfl
@[simp] theorem acceptWord_h : (acceptWord s).h = s.h := rfl
@[simp] theorem acceptWord_iw : (acceptWord s).iw = s.iw := rfl
@[simp] theorem acceptWord_ih : (acceptWord s).ih = s.ih := rfl
@[simp] theorem acceptWord_colors : (acceptWord s).colors = s.colors := rfl
@[simp] theorem acceptWord_bpp : (acceptWord s).bpp = s.bpp := rfl
@[simp] theorem acceptWord_pixCount : (acceptWord s).pixCount = s.pixCount := rfl
@[simp] theorem acceptWord_fbpp : (acceptWord s).fbpp = s.fbpp := rfl
@[simp] theorem acceptWord_fh : (acceptWord s).fh = s.fh := rfl
@[simp] theorem acceptWord_glyphs : (acceptWord s).glyphs = s.glyphs := rfl
@[simp] theorem acceptWord_errCode : (acceptWord s).errCode = s.errCode := rfl
@[simp] theorem acceptWord_errOp : (acceptWord s).errOp = s.errOp := rfl
@[simp] theorem acceptWord_pixbuf : (acceptWord s).pixbuf = s.pixbuf := rfl
@[simp] theorem acceptWord_out : (acceptWord s).out = s.out := rfl
@[simp] theorem acceptWord_rsp : (acceptWord s).rsp = s.rsp := rfl
@[simp] theorem acceptWord_outTaken : (acceptWord s).outTaken = s.outTaken := rfl
@[simp] theorem acceptWord_rspTaken : (acceptWord s).rspTaken = s.rspTaken := rfl
@[simp] theorem acceptWord_pos : (acceptWord s).pos = s.pos + 1 := rfl
@[simp] theorem acceptWord_rstN : (acceptWord s).rstN = s.rstN := rfl
@[simp] theorem acceptWord_inbox : (acceptWord s).inbox = s.inbox := rfl

end acceptWord

section resetBlock
variable (s : State)

@[simp] theorem resetBlock_cfg : (resetBlock s).cfg = s.cfg := rfl
@[simp] theorem resetBlock_mode : (resetBlock s).mode = .idle := rfl
@[simp] theorem resetBlock_w : (resetBlock s).w = 0#16 := rfl
@[simp] theorem resetBlock_h : (resetBlock s).h = 0#16 := rfl
@[simp] theorem resetBlock_iw : (resetBlock s).iw = 0#16 := rfl
@[simp] theorem resetBlock_ih : (resetBlock s).ih = 0#16 := rfl
@[simp] theorem resetBlock_colors : (resetBlock s).colors = 0#9 := rfl
@[simp] theorem resetBlock_bpp : (resetBlock s).bpp = 0#4 := rfl
@[simp] theorem resetBlock_pixCount : (resetBlock s).pixCount = 0#32 := rfl
@[simp] theorem resetBlock_fbpp : (resetBlock s).fbpp = 0#4 := rfl
@[simp] theorem resetBlock_fh : (resetBlock s).fh = 0#16 := rfl
@[simp] theorem resetBlock_glyphs : (resetBlock s).glyphs = [] := rfl
@[simp] theorem resetBlock_errCode : (resetBlock s).errCode = 0#8 := rfl
@[simp] theorem resetBlock_errOp : (resetBlock s).errOp = 0#8 := rfl
@[simp] theorem resetBlock_pixbuf : (resetBlock s).pixbuf = [] := rfl
@[simp] theorem resetBlock_out : (resetBlock s).out = [] := rfl
@[simp] theorem resetBlock_rsp : (resetBlock s).rsp = [] := rfl
@[simp] theorem resetBlock_outTaken : (resetBlock s).outTaken = 0 := rfl
@[simp] theorem resetBlock_rspTaken : (resetBlock s).rspTaken = 0 := rfl
@[simp] theorem resetBlock_pos : (resetBlock s).pos = 0 := rfl
@[simp] theorem resetBlock_rstN : (resetBlock s).rstN = false := rfl
@[simp] theorem resetBlock_inbox : (resetBlock s).inbox = s.inbox := rfl

end resetBlock

section releaseBlock
variable (s : State)

@[simp] theorem releaseBlock_cfg : (releaseBlock s).cfg = s.cfg := rfl
@[simp] theorem releaseBlock_mode : (releaseBlock s).mode = s.mode := rfl
@[simp] theorem releaseBlock_w : (releaseBlock s).w = s.w := rfl
@[simp] theorem releaseBlock_h : (releaseBlock s).h = s.h := rfl
@[simp] theorem releaseBlock_iw : (releaseBlock s).iw = s.iw := rfl
@[simp] theorem releaseBlock_ih : (releaseBlock s).ih = s.ih := rfl
@[simp] theorem releaseBlock_colors : (releaseBlock s).colors = s.colors := rfl
@[simp] theorem releaseBlock_bpp : (releaseBlock s).bpp = s.bpp := rfl
@[simp] theorem releaseBlock_pixCount : (releaseBlock s).pixCount = s.pixCount := rfl
@[simp] theorem releaseBlock_fbpp : (releaseBlock s).fbpp = s.fbpp := rfl
@[simp] theorem releaseBlock_fh : (releaseBlock s).fh = s.fh := rfl
@[simp] theorem releaseBlock_glyphs : (releaseBlock s).glyphs = s.glyphs := rfl
@[simp] theorem releaseBlock_errCode : (releaseBlock s).errCode = s.errCode := rfl
@[simp] theorem releaseBlock_errOp : (releaseBlock s).errOp = s.errOp := rfl
@[simp] theorem releaseBlock_pixbuf : (releaseBlock s).pixbuf = s.pixbuf := rfl
@[simp] theorem releaseBlock_out : (releaseBlock s).out = s.out := rfl
@[simp] theorem releaseBlock_rsp : (releaseBlock s).rsp = s.rsp := rfl
@[simp] theorem releaseBlock_outTaken : (releaseBlock s).outTaken = s.outTaken := rfl
@[simp] theorem releaseBlock_rspTaken : (releaseBlock s).rspTaken = s.rspTaken := rfl
@[simp] theorem releaseBlock_pos : (releaseBlock s).pos = s.pos := rfl
@[simp] theorem releaseBlock_rstN : (releaseBlock s).rstN = true := rfl
@[simp] theorem releaseBlock_inbox : (releaseBlock s).inbox = s.inbox := rfl

end releaseBlock

section offerWord
variable (w : Word) (s : State)

@[simp] theorem offerWord_cfg : (offerWord w s).cfg = s.cfg := rfl
@[simp] theorem offerWord_mode : (offerWord w s).mode = s.mode := rfl
@[simp] theorem offerWord_w : (offerWord w s).w = s.w := rfl
@[simp] theorem offerWord_h : (offerWord w s).h = s.h := rfl
@[simp] theorem offerWord_iw : (offerWord w s).iw = s.iw := rfl
@[simp] theorem offerWord_ih : (offerWord w s).ih = s.ih := rfl
@[simp] theorem offerWord_colors : (offerWord w s).colors = s.colors := rfl
@[simp] theorem offerWord_bpp : (offerWord w s).bpp = s.bpp := rfl
@[simp] theorem offerWord_pixCount : (offerWord w s).pixCount = s.pixCount := rfl
@[simp] theorem offerWord_fbpp : (offerWord w s).fbpp = s.fbpp := rfl
@[simp] theorem offerWord_fh : (offerWord w s).fh = s.fh := rfl
@[simp] theorem offerWord_glyphs : (offerWord w s).glyphs = s.glyphs := rfl
@[simp] theorem offerWord_errCode : (offerWord w s).errCode = s.errCode := rfl
@[simp] theorem offerWord_errOp : (offerWord w s).errOp = s.errOp := rfl
@[simp] theorem offerWord_pixbuf : (offerWord w s).pixbuf = s.pixbuf := rfl
@[simp] theorem offerWord_out : (offerWord w s).out = s.out := rfl
@[simp] theorem offerWord_rsp : (offerWord w s).rsp = s.rsp := rfl
@[simp] theorem offerWord_outTaken : (offerWord w s).outTaken = s.outTaken := rfl
@[simp] theorem offerWord_rspTaken : (offerWord w s).rspTaken = s.rspTaken := rfl
@[simp] theorem offerWord_pos : (offerWord w s).pos = s.pos := rfl
@[simp] theorem offerWord_rstN : (offerWord w s).rstN = s.rstN := rfl
@[simp] theorem offerWord_inbox : (offerWord w s).inbox = .command w :: s.inbox := rfl

end offerWord

end Sys2Proof.Machine
end

