-- ==== Sys2Proof/Laws/Ops.lean ====
section
/-! SUPPORT. What the shared operations can do, said once: the frame of a command, the legality table, the events of the
ports, and the shapes of the byte and bit functions. -/

namespace Sys2Proof.Machine

/-- A command does one of four things: it is discarded, it raises the table's error, it raises its own error, or its rule
completes (40_dispatch.md R121, R123, R124). -/
theorem runCommand_cases (op : Opcode) (body : State → Except ErrorKind State) (s : State) :
    (legality op s.mode = .discard ∧ runCommand op body s = s) ∨
    (∃ e, legality op s.mode = .illegal e ∧ runCommand op body s = raiseError e op.code s) ∨
    (∃ e, legality op s.mode = .perform ∧ body s = .error e ∧ runCommand op body s = raiseError e op.code s) ∨
    (∃ t, legality op s.mode = .perform ∧ body s = .ok t ∧ runCommand op body s = t) := by
  unfold runCommand
  cases hl : legality op s.mode with
  | discard => simp
  | illegal e => simp
  | perform => cases hb : body s <;> simp

theorem runCommand_ok {op : Opcode} {body : State → Except ErrorKind State} {s t : State}
    (hl : legality op s.mode = .perform) (hb : body s = .ok t) : runCommand op body s = t := by
  simp [runCommand, hl, hb]

theorem runCommand_error {op : Opcode} {body : State → Except ErrorKind State} {s : State} {e : ErrorKind}
    (hl : legality op s.mode = .perform) (hb : body s = .error e) : runCommand op body s = raiseError e op.code s := by
  simp [runCommand, hl, hb]

theorem runCommand_illegal {op : Opcode} {body : State → Except ErrorKind State} {s : State} {e : ErrorKind}
    (hl : legality op s.mode = .illegal e) : runCommand op body s = raiseError e op.code s := by
  simp [runCommand, hl]

theorem runCommand_discard {op : Opcode} {body : State → Except ErrorKind State} {s : State}
    (hl : legality op s.mode = .discard) : runCommand op body s = s := by
  simp [runCommand, hl]

/-- A malformed word is discarded in ERROR and raises its error elsewhere (40_dispatch.md R121, R122). -/
theorem rejectWord_cases (m : Malformed) (w : Word) (s : State) :
    (s.mode = .error ∧ rejectWord m w s = s) ∨
    (s.mode ≠ .error ∧ rejectWord m w s = raiseError (malformedError m) (opcodeByte w) s) := by
  unfold rejectWord
  cases s.mode <;> simp

/-- A byte offered is taken; with none offered nothing happens (10_state.md R41). -/
theorem takeOutByte_cases (s : State) :
    (s.rstN = true ∧ s.outTaken < s.out.length ∧ takeOutByte s = { s with outTaken := s.outTaken + 1 }) ∨
    (outOffered s = none ∧ takeOutByte s = s) := by
  unfold takeOutByte outOffered
  cases hr : s.rstN
  · simp
  · by_cases h : s.outTaken < s.out.length <;> simp_all

/-- A response offered is taken; with none offered nothing happens (10_state.md R42). -/
theorem takeResponseWord_cases (s : State) :
    (s.rstN = true ∧ s.rspTaken < s.rsp.length ∧ takeResponseWord s = { s with rspTaken := s.rspTaken + 1 }) ∨
    (rspOffered s = none ∧ takeResponseWord s = s) := by
  unfold takeResponseWord rspOffered
  cases hr : s.rstN
  · simp
  · by_cases h : s.rspTaken < s.rsp.length <;> simp_all

/-- Out of reset the first event is the next. -/
@[simp] theorem nextEvent_true (e : HostEvent) (rest : List HostEvent) : nextEvent true (e :: rest) = some (e, rest) := by
  cases e <;> rfl

@[simp] theorem nextEvent_nil (b : Bool) : nextEvent b [] = none := by cases b <;> rfl

/-- In reset words alone are no event. -/
@[simp] theorem nextEvent_words (ws : List Word) : nextEvent false (ws.map .command) = none := by
  induction ws with
  | nil => rfl
  | cons w ws ih => simp [nextEvent, ih]

/-- In reset words are kept in front while the first other event happens. -/
theorem nextEvent_held (ws : List Word) (e : HostEvent) (rest : List HostEvent) (he : ∀ w, e ≠ .command w) :
    nextEvent false (ws.map .command ++ e :: rest) = some (e, ws.map .command ++ rest) := by
  induction ws with
  | nil => cases e <;> first | rfl | exact absurd rfl (he _)
  | cons w ws ih => simp [nextEvent, ih]

/-- Every list of events is words alone, or words before another event. -/
theorem events_cases (l : List HostEvent) :
    (∃ ws : List Word, l = ws.map .command) ∨
    (∃ (ws : List Word) (e : HostEvent) (rest : List HostEvent),
      (∀ w, e ≠ .command w) ∧ l = ws.map .command ++ e :: rest) := by
  induction l with
  | nil => exact .inl ⟨[], rfl⟩
  | cons x xs ih =>
    cases x with
    | command w =>
      rcases ih with ⟨ws, h⟩ | ⟨ws, e, rest, he, h⟩
      · exact .inl ⟨w :: ws, by simp [h]⟩
      · exact .inr ⟨w :: ws, e, rest, he, by simp [h]⟩
    | _ => exact .inr ⟨[], _, xs, by simp, rfl⟩

/-- A word is the next event only out of reset, when it is the first. -/
theorem nextEvent_command {b : Bool} {l rest : List HostEvent} {w : Word}
    (h : nextEvent b l = some (.command w, rest)) : b = true ∧ l = .command w :: rest := by
  cases b with
  | true => cases l <;> simp_all
  | false =>
    rcases events_cases l with ⟨ws, rfl⟩ | ⟨ws, e, r, he, rfl⟩
    · simp at h
    · rw [nextEvent_held _ _ _ he] at h
      simp at h
      exact absurd h.1 (he w)

/-- What the block finds at its ports, by the next event. -/
theorem fetch_cases (s : State) :
    (nextEvent s.rstN s.inbox = none ∧ fetch s = .waiting) ∨
    (∃ e rest, nextEvent s.rstN s.inbox = some (e, rest) ∧ fetch s = atPorts e { s with inbox := rest }) := by
  unfold fetch
  cases h : nextEvent s.rstN s.inbox with
  | none => exact .inl ⟨rfl, rfl⟩
  | some x => exact .inr ⟨x.1, x.2, rfl, rfl⟩

@[simp] theorem markLast_length (bs : List Byte) : (markLast bs).length = bs.length := by
  induction bs with
  | nil => rfl
  | cons b rest ih => cases rest with
    | nil => rfl
    | cons c t => simpa [markLast] using ih

/-- The emitted bytes without their marks are the container. -/
@[simp] theorem markLast_bytes (bs : List Byte) : (markLast bs).map Prod.fst = bs := by
  induction bs with
  | nil => rfl
  | cons b rest ih => cases rest with
    | nil => rfl
    | cons c t => simpa [markLast] using ih

@[simp] theorem leBytes_length (v n : Nat) : (leBytes v n).length = n := by simp [leBytes]

@[simp] theorem bitsOf_length (v n : Nat) : (bitsOf v n).length = n := by simp [bitsOf]

@[simp] theorem wireBytes_length (p : Rgb) : (wireBytes p).length = 2 := by simp [wireBytes]

/-- `addSample` changes the last record alone. -/
theorem addSample_append (v : Byte) (gs : List Glyph) (g : Glyph) :
    addSample v (gs ++ [g]) = gs ++ [{ g with samples := g.samples ++ [v] }] := by
  induction gs with
  | nil => rfl
  | cons a rest ih => cases rest with
    | nil => rfl
    | cons b t => simpa [addSample] using ih

end Sys2Proof.Machine
end

