-- ==== Sys2Proof/Laws/Commands.lean ====
section
/-! SUPPORT. What each command can do, said once: its rule, when the rule completes, and the four things `exec` can answer.
Proofs over all commands cite `exec_cases` and the `…Rule_ok` lemmas. -/

namespace Sys2Proof.Machine

/-- The rule of each command, performed where the command is legal. -/
def commandRule : Instr → State → Except ErrorKind State
  | .nop => nopRule
  | .setW v => setWRule v
  | .setH v => setHRule v
  | .imgBegin c => imgBeginRule c
  | .pixel r g b => pixelRule ⟨r, g, b⟩
  | .imgEnd => imgEndRule
  | .fontBegin n => fontBeginRule n
  | .glyphBegin c => glyphBeginRule c
  | .sample v => sampleRule v
  | .fontEnd => fontEndRule
  | .xcode r g b => xcodeRule ⟨r, g, b⟩
  | .query => queryRule
  | .abort => abortRule

/-- Every command is its rule run in the shared frame. -/
theorem exec_eq (i : Instr) (s : State) : exec i s = .next (runCommand i.opcode (commandRule i) s) := by
  cases i <;> rfl

/-- What a command can do: it is discarded, it enters ERROR, or its rule completes. -/
theorem exec_cases {i : Instr} {s t : State} (h : exec i s = .next t) :
    (legality i.opcode s.mode = .discard ∧ t = s) ∨
    (∃ e, legality i.opcode s.mode = .illegal e ∧ t = raiseError e i.opcode.code s) ∨
    (∃ e, legality i.opcode s.mode = .perform ∧ commandRule i s = .error e ∧ t = raiseError e i.opcode.code s) ∨
    (legality i.opcode s.mode = .perform ∧ commandRule i s = .ok t) := by
  rw [exec_eq] at h
  injection h with h
  subst h
  rcases runCommand_cases i.opcode (commandRule i) s with ⟨hl, h⟩ | ⟨e, hl, h⟩ | ⟨e, hl, hb, h⟩ | ⟨t, hl, hb, h⟩
  · exact .inl ⟨hl, h⟩
  · exact .inr (.inl ⟨e, hl, h⟩)
  · exact .inr (.inr (.inl ⟨e, hl, hb, h⟩))
  · exact .inr (.inr (.inr ⟨hl, h ▸ hb⟩))

/-- A command whose rule completes where it is legal answers that state. -/
theorem exec_ok {i : Instr} {s t : State} (hl : legality i.opcode s.mode = .perform) (hb : commandRule i s = .ok t) :
    exec i s = .next t := by
  rw [exec_eq, runCommand_ok hl hb]

/-- A command whose rule fails where it is legal enters ERROR. -/
theorem exec_error {i : Instr} {s : State} {e : ErrorKind} (hl : legality i.opcode s.mode = .perform)
    (hb : commandRule i s = .error e) : exec i s = .next (raiseError e i.opcode.code s) := by
  rw [exec_eq, runCommand_error hl hb]

/-- A command that is illegal here enters ERROR. -/
theorem exec_illegal {i : Instr} {s : State} {e : ErrorKind} (hl : legality i.opcode s.mode = .illegal e) :
    exec i s = .next (raiseError e i.opcode.code s) := by
  rw [exec_eq, runCommand_illegal hl]

/-- A command that is discarded here changes nothing. -/
theorem exec_discard {i : Instr} {s : State} (hl : legality i.opcode s.mode = .discard) : exec i s = .next s := by
  rw [exec_eq, runCommand_discard hl]

/-- Nothing is illegal or fails in ERROR. -/
theorem legality_error (op : Opcode) :
    legality op .error = if op = .nop ∨ op = .query ∨ op = .abort then .perform else .discard := by
  cases op <;> rfl

theorem imgBeginRule_ok {c : BitVec 24} {s t : State} (h : imgBeginRule c s = .ok t) :
    validColors c.toNat = true ∧ s.w.toNat * s.h.toNat ≤ s.cfg.maxPixels.val ∧
    t = { s with
      iw := s.w, ih := s.h, colors := c.setWidth 9, bpp := BitVec.ofNat 4 (bppOf c.toNat), pixCount := 0#32,
      mode := .img } := by
  unfold imgBeginRule at h
  split at h
  · cases h
  · split at h
    · cases h
    · cases h
      exact ⟨by simp_all, by omega, rfl⟩

theorem pixelRule_ok {p : Rgb} {s t : State} (h : pixelRule p s = .ok t) :
    s.pixCount.toNat ≠ imagePixels s ∧
    t = { s with pixbuf := bufWrite s.pixbuf s.pixCount.toNat p, pixCount := s.pixCount + 1#32 } := by
  unfold pixelRule at h
  split at h
  · cases h
  · cases h
    exact ⟨‹_›, rfl⟩

theorem imgEndRule_ok {s t : State} (h : imgEndRule s = .ok t) :
    s.pixCount.toNat = imagePixels s ∧
    t = { s with
      pixCount := 0#32, mode := .idle, out := s.out ++ markLast (openImage s),
      rsp := s.rsp ++ [responseWord Opcode.imgEnd.code 0#8 0#16] } := by
  unfold imgEndRule at h
  split at h
  · cases h
  · cases h
    exact ⟨by simp_all, rfl⟩

theorem fontBeginRule_ok {n : BitVec 24} {s t : State} (h : fontBeginRule n s = .ok t) :
    1 ≤ n.toNat ∧ n.toNat ≤ 8 ∧
    t = { s with fbpp := n.setWidth 4, fh := s.h, glyphs := [], mode := .font } := by
  unfold fontBeginRule at h
  split at h
  · cases h
  · cases h
    exact ⟨by omega, by omega, rfl⟩

theorem glyphBeginRule_ok {c : BitVec 24} {s t : State} (h : glyphBeginRule c s = .ok t) :
    scalarValue c.toNat = true ∧ outOfOrder s.glyphs c.toNat = false ∧
    ¬ (s.cfg.widthEntry = .one ∧ 255 < s.w.toNat) ∧ overCapacity s c.toNat = false ∧
    t = { s with
      glyphs := s.glyphs ++ [⟨c.setWidth 21, s.w, []⟩],
      mode := if s.w.toNat * s.fh.toNat = 0 then .font else .glyph } := by
  unfold glyphBeginRule at h
  split at h
  · cases h
  · split at h
    · cases h
    · split at h
      · cases h
      · split at h
        · cases h
        · cases h
          exact ⟨by simp_all, by simp_all, ‹_›, by simp_all, rfl⟩

theorem sampleRule_ok {v : BitVec 24} {s t : State} (h : sampleRule v s = .ok t) :
    v.toNat < 2 ^ s.fbpp.toNat ∧
    t = { s with
      glyphs := addSample (v.setWidth 8) s.glyphs,
      mode := if lastComplete (addSample (v.setWidth 8) s.glyphs) s.fh.toNat then .font else s.mode } := by
  unfold sampleRule at h
  split at h
  · cases h
  · cases h
    exact ⟨by omega, rfl⟩

theorem fontEndRule_ok {s t : State} (h : fontEndRule s = .ok t) :
    t = { s with
      glyphs := [], mode := .idle, out := s.out ++ markLast (openFont s),
      rsp := s.rsp ++ [responseWord Opcode.fontEnd.code 0#8 0#16] } := by
  cases h
  rfl

/-- Without an event the block waits; out of reset a word is taken and run; the other events are dealt with at the
ports. -/
theorem step_cases (s : State) :
    (nextEvent s.rstN s.inbox = none ∧ step s = .next s) ∨
    (∃ w rest, s.rstN = true ∧ s.inbox = .command w :: rest ∧
      step s = stepWord w { s with inbox := rest, pos := s.pos + 1 }) ∨
    (∃ rest, nextEvent s.rstN s.inbox = some (.takeByte, rest) ∧
      step s = .next (takeOutByte { s with inbox := rest })) ∨
    (∃ rest, nextEvent s.rstN s.inbox = some (.takeResponse, rest) ∧
      step s = .next (takeResponseWord { s with inbox := rest })) ∨
    (∃ rest, nextEvent s.rstN s.inbox = some (.assertReset, rest) ∧
      step s = .next (resetBlock { s with inbox := rest })) ∨
    (∃ rest, nextEvent s.rstN s.inbox = some (.releaseReset, rest) ∧
      step s = .next (releaseBlock { s with inbox := rest })) := by
  unfold step
  rcases fetch_cases s with ⟨hi, h⟩ | ⟨e, rest, hi, h⟩ <;> rw [h]
  · exact .inl ⟨hi, rfl⟩
  · cases e with
    | command w => exact .inr (.inl ⟨w, rest, (nextEvent_command hi).1, (nextEvent_command hi).2, rfl⟩)
    | takeByte => exact .inr (.inr (.inl ⟨rest, hi, rfl⟩))
    | takeResponse => exact .inr (.inr (.inr (.inl ⟨rest, hi, rfl⟩)))
    | assertReset => exact .inr (.inr (.inr (.inr (.inl ⟨rest, hi, rfl⟩))))
    | releaseReset => exact .inr (.inr (.inr (.inr (.inr ⟨rest, hi, rfl⟩))))

/-- A word either decodes and is executed, or is rejected. -/
theorem stepWord_cases (w : Word) (s : State) :
    (∃ i, decode w = .ok i ∧ stepWord w s = exec i s) ∨
    (∃ m, decode w = .error m ∧ stepWord w s = .next (rejectWord m w s)) := by
  unfold stepWord
  cases hd : decode w with
  | ok i => exact .inl ⟨i, rfl, rfl⟩
  | error m => exact .inr ⟨m, rfl, rfl⟩

end Sys2Proof.Machine
end

