-- ==== Sys2Proof/Laws/Encoding.lean ====
section
/-! SUPPORT. The fields of a command word as numbers, and what the field extractors read from an assembled word. -/

namespace Sys2Proof

theorem wordOf_toNat (b : Byte) (x : BitVec 24) : (wordOf b x).toNat = b.toNat * 2 ^ 24 + x.toNat := by
  have h : (b ++ x).toNat = b.toNat <<< 24 ||| x.toNat := BitVec.toNat_append b x
  refine Eq.trans h ?_
  rw [← Nat.shiftLeft_add_eq_or_of_lt x.isLt, Nat.shiftLeft_eq]

theorem u16Bits_toNat (v : BitVec 16) : (u16Bits v).toNat = v.toNat := by
  have h : (0#8 ++ v).toNat = (0#8).toNat <<< 16 ||| v.toNat := BitVec.toNat_append 0#8 v
  refine Eq.trans h ?_
  simp

theorem colorBits_toNat (r g b : Byte) :
    (colorBits r g b).toNat = r.toNat * 2 ^ 16 + (g.toNat * 2 ^ 8 + b.toNat) := by
  have h : (r ++ (g ++ b)).toNat = r.toNat <<< 16 ||| (g.toNat <<< 8 ||| b.toNat) := by
    rw [BitVec.toNat_append, BitVec.toNat_append]
  refine Eq.trans h ?_
  have hg := g.isLt
  have hb := b.isLt
  have hlt : g.toNat <<< 8 + b.toNat < 2 ^ 16 := by rw [Nat.shiftLeft_eq]; omega
  rw [← Nat.shiftLeft_add_eq_or_of_lt hb, ← Nat.shiftLeft_add_eq_or_of_lt hlt, Nat.shiftLeft_eq, Nat.shiftLeft_eq]

theorem extract_toNat (w : Word) (lo n : Nat) : (w.extractLsb' lo n).toNat = w.toNat / 2 ^ lo % 2 ^ n := by
  rw [BitVec.extractLsb'_toNat, Nat.shiftRight_eq_div_pow]

/-- A word is its opcode byte over its operand. -/
theorem wordOf_fields (w : Word) : wordOf (opcodeByte w) (operand24 w) = w := by
  apply BitVec.eq_of_toNat_eq
  have := w.isLt
  rw [wordOf_toNat, opcodeByte, operand24, extract_toNat, extract_toNat]
  omega

@[simp] theorem opcodeByte_wordOf (b : Byte) (x : BitVec 24) : opcodeByte (wordOf b x) = b := by
  apply BitVec.eq_of_toNat_eq
  have := b.isLt
  have := x.isLt
  rw [opcodeByte, extract_toNat, wordOf_toNat]
  omega

@[simp] theorem operand24_wordOf (b : Byte) (x : BitVec 24) : operand24 (wordOf b x) = x := by
  apply BitVec.eq_of_toNat_eq
  have := x.isLt
  rw [operand24, extract_toNat, wordOf_toNat]
  omega

@[simp] theorem operand16_wordOf (b : Byte) (v : BitVec 16) : operand16 (wordOf b (u16Bits v)) = v := by
  apply BitVec.eq_of_toNat_eq
  have := v.isLt
  rw [operand16, extract_toNat, wordOf_toNat, u16Bits_toNat]
  omega

@[simp] theorem operandR_wordOf (c r g b : Byte) : operandR (wordOf c (colorBits r g b)) = r := by
  apply BitVec.eq_of_toNat_eq
  have := r.isLt
  have := g.isLt
  have := b.isLt
  rw [operandR, extract_toNat, wordOf_toNat, colorBits_toNat]
  omega

@[simp] theorem operandG_wordOf (c r g b : Byte) : operandG (wordOf c (colorBits r g b)) = g := by
  apply BitVec.eq_of_toNat_eq
  have := r.isLt
  have := g.isLt
  have := b.isLt
  rw [operandG, extract_toNat, wordOf_toNat, colorBits_toNat]
  omega

@[simp] theorem operandB_wordOf (c r g b : Byte) : operandB (wordOf c (colorBits r g b)) = b := by
  apply BitVec.eq_of_toNat_eq
  have := g.isLt
  have := b.isLt
  rw [operandB, extract_toNat, wordOf_toNat, colorBits_toNat]
  omega

/-- The F_U24 mask keeps the opcode byte alone. -/
theorem wordOf_mask_u24 (b : Byte) (x : BitVec 24) : wordOf b x &&& OpFormat.fU24.mask = wordOf b 0#24 := by
  have hm : OpFormat.fU24.mask = (BitVec.allOnes 8 ++ 0#24 : Word) := by decide
  have key : (b ++ x) &&& (BitVec.allOnes 8 ++ 0#24) = b ++ 0#24 := by
    rw [BitVec.and_append, BitVec.and_allOnes]; simp
  rw [hm]
  exact key

/-- The F_U16 mask keeps the opcode byte and the eight reserved bits. -/
theorem wordOf_mask_u16 (b c : Byte) (v : BitVec 16) :
    wordOf b (c ++ v) &&& OpFormat.fU16.mask = wordOf b (c ++ 0#16) := by
  have hm : OpFormat.fU16.mask = (BitVec.allOnes 8 ++ (BitVec.allOnes 8 ++ 0#16) : Word) := by decide
  have key : (b ++ (c ++ v)) &&& (BitVec.allOnes 8 ++ (BitVec.allOnes 8 ++ 0#16)) = b ++ (c ++ 0#16) := by
    rw [BitVec.and_append, BitVec.and_append, BitVec.and_allOnes, BitVec.and_allOnes]; simp
  rw [hm]
  exact key

/-- The F_NONE mask keeps every bit. -/
theorem mask_none (w : Word) : w &&& OpFormat.fNone.mask = w := by
  have hm : OpFormat.fNone.mask = BitVec.allOnes 32 := by decide
  rw [hm, BitVec.and_allOnes]

/-- The opcode map reads every opcode's byte. -/
@[simp] theorem opcodeOf_code (op : Opcode) : opcodeOf op.code = some op := by cases op <;> decide

/-- An opcode that the map reads has that byte. -/
theorem opcodeOf_some {b : Byte} {op : Opcode} (h : opcodeOf b = some op) : op.code = b := by
  simpa using List.find?_some h

end Sys2Proof
end

