-- ==== Sys2Proof/Laws/PerInstr.lean ====
section
/-! SUPPORT. A fact about every command as an encoding, one lemma per constructor: its word matches its row of the opcode
table under the row's mask (30_encoding.md R91, R94). -/

namespace Sys2Proof.Laws.RowMatch

/-- The word of the command agrees with its opcode's row under the mask of its format. -/
def Statement (i : Instr) : Prop := encode i &&& i.opcode.format.mask = i.opcode.matchWord

theorem nop : Statement .nop := by unfold Statement; decide

theorem imgEnd : Statement .imgEnd := by unfold Statement; decide

theorem fontEnd : Statement .fontEnd := by unfold Statement; decide

theorem query : Statement .query := by unfold Statement; decide

theorem abort : Statement .abort := by unfold Statement; decide

theorem setW (imm16 : BitVec 16) : Statement (.setW imm16) := wordOf_mask_u16 _ 0#8 imm16

theorem setH (imm16 : BitVec 16) : Statement (.setH imm16) := wordOf_mask_u16 _ 0#8 imm16

theorem imgBegin (colors : BitVec 24) : Statement (.imgBegin colors) := wordOf_mask_u24 _ colors

theorem pixel (r g b : Byte) : Statement (.pixel r g b) := wordOf_mask_u24 _ (colorBits r g b)

theorem fontBegin (bpp : BitVec 24) : Statement (.fontBegin bpp) := wordOf_mask_u24 _ bpp

theorem glyphBegin (code : BitVec 24) : Statement (.glyphBegin code) := wordOf_mask_u24 _ code

theorem sample (v : BitVec 24) : Statement (.sample v) := wordOf_mask_u24 _ v

theorem xcode (r g b : Byte) : Statement (.xcode r g b) := wordOf_mask_u24 _ (colorBits r g b)

end Sys2Proof.Laws.RowMatch
end

