-- ==== Sys2Proof/Tests/Slice0.lean ====
section
/-! SUPPORT. The model's own tests: ill-formed assembler lines refused, words written out from 30_encoding.md decoded,
vectors of 95_test_vectors.md (each test names its vector), and for each statement with hypotheses a witness that meets
them. -/

namespace Sys2Proof.Tests

open Sys2Proof.Machine Sys2Proof.Safety

/-! ## A small block -/

/-- A configuration with REF_QUANT and small capacities, FONT_MAGIC and capacities chosen for the tests alone. -/
def demo : Params where
  quant := .ref
  fontMagic := #v[0x4D#8, 0x31#8, 0x32#8, 0x33#8]
  maxPixels := 16
  maxGlyphs := 8
  maxGlyphBits := 4096
  glyphByteAlign := false
  widthEntry := .two
  cmdFifoDepth := 1
  outFifoDepth := 1
  rspFifoDepth := 1

/-- The block after reset. -/
def idle : State := State.resetWith demo

/-- An open image of `w` by `h` pixels with `c` colours and `n` black pixels given. -/
def img (w h : BitVec 16) (c : Nat) (n : Nat) : State :=
  { idle with
    mode := .img, w := w, h := h, iw := w, ih := h, colors := BitVec.ofNat 9 c, bpp := BitVec.ofNat 4 (bppOf c),
    pixCount := BitVec.ofNat 32 n, pixbuf := (List.range n).map (fun k => (k, ⟨0#8, 0#8, 0#8⟩)) }

/-- An open font of height `fh` and `b` bits per sample with glyphs `gs`, taking samples or not. -/
def font (m : Mode) (fh : BitVec 16) (b : BitVec 4) (gs : List Glyph) : State :=
  { idle with mode := m, h := fh, fh := fh, fbpp := b, glyphs := gs }

/-- The block in ERROR after an unassigned opcode byte 0x03. -/
def failed : State := { idle with mode := .error, errCode := 0x02#8, errOp := 0x03#8, rsp := [0x03020000#32] }

/-- The state a step answers. -/
def got (o : Host.Outcome State Fault Refusal) : State :=
  match o with
  | .next t => t
  | _ => idle

/-- The step of a word offered to `s`. -/
def feed (w : Word) (s : State) : State := got (step (offerWord w s))

/-- What a word's step shows: STATE, the response it appends, W. -/
def shown (w : Word) (s : State) : Mode × List Word × BitVec 16 :=
  ((feed w s).mode, (feed w s).rsp.drop s.rsp.length, (feed w s).w)

def red : Rgb := ⟨0xFF#8, 0#8, 0#8⟩
def green : Rgb := ⟨0#8, 0xFF#8, 0#8⟩
def blue : Rgb := ⟨0#8, 0#8, 0xFF#8⟩
def white : Rgb := ⟨0xFF#8, 0xFF#8, 0xFF#8⟩
def black : Rgb := ⟨0#8, 0#8, 0#8⟩

/-- Glyphs 'A' and 'B' of program P3. -/
def glyphA : Glyph := ⟨0x41#21, 3#16, [1#8, 0#8, 1#8, 0#8, 1#8, 0#8]⟩
def glyphB : Glyph := ⟨0x42#21, 2#16, [1#8, 1#8, 0#8, 1#8]⟩

/-! ## WellFormed: each check refuses an ill-formed line (30_encoding.md R96) -/

theorem test_line_none_with_operand : assemble (.cmd .nop (.num 0)) = none := by decide
theorem test_line_operand_missing : assemble (.cmd .setW .none) = none := by decide
theorem test_line_u16_too_large :
    assemble (.cmd .setW (.num 65536)) = none ∧ assemble (.cmd .setW (.num 65535)) = some 0x0100FFFF#32 := by decide
theorem test_line_u24_too_large :
    assemble (.cmd .imgBegin (.num 16777216)) = none ∧ assemble (.cmd .imgBegin (.num 16777215)) = some 0x10FFFFFF#32 := by
  decide
theorem test_line_component_too_large :
    assemble (.cmd .pixel (.rgb 256 0 0)) = none ∧ assemble (.cmd .pixel (.rgb 0 256 0)) = none ∧
    assemble (.cmd .xcode (.rgb 0 0 256)) = none ∧ assemble (.cmd .xcode (.rgb 0x12 0x34 0x56)) = some 0x30123456#32 := by
  decide
theorem test_line_color_elsewhere : assemble (.cmd .sample (.rgb 0 0 1)) = none := by decide
theorem test_line_raw_word :
    assemble (.word 0x100000000) = none ∧ assemble (.word 0x40000000) = some 0x40000000#32 := by decide

/-- R97: `IMAGE 2, 2, 4` and `GLYPH 'A', 3` expand in the table's order. -/
theorem test_pseudo_expansion :
    (expandPseudo (.image 2 2 4)).map assemble = [some 0x01000002#32, some 0x02000002#32, some 0x10000004#32] ∧
    (expandPseudo (.glyph 0x41 3)).map assemble = [some 0x01000003#32, some 0x21000041#32] := by decide

/-! ## Decode: words written out from 30_encoding.md R91, R92 (and section 5) -/

theorem test_decode_control :
    decode 0x00000000#32 = .ok .nop ∧ decode 0x0100ABCD#32 = .ok (.setW 0xABCD#16) ∧
    decode 0x02008001#32 = .ok (.setH 0x8001#16) ∧ decode 0xF0000000#32 = .ok .query ∧
    decode 0xFF000000#32 = .ok .abort := by decide
theorem test_decode_image :
    decode 0x10800001#32 = .ok (.imgBegin 0x800001#24) ∧ decode 0x11123456#32 = .ok (.pixel 0x12#8 0x34#8 0x56#8) ∧
    decode 0x12000000#32 = .ok .imgEnd := by decide
theorem test_decode_font :
    decode 0x20000008#32 = .ok (.fontBegin 8#24) ∧ decode 0x2101F600#32 = .ok (.glyphBegin 0x1F600#24) ∧
    decode 0x22800001#32 = .ok (.sample 0x800001#24) ∧ decode 0x23000000#32 = .ok .fontEnd := by decide
theorem test_decode_xcode : decode 0x30FEDCBA#32 = .ok (.xcode 0xFE#8 0xDC#8 0xBA#8) := by decide
theorem test_decode_unassigned :
    decode 0x03000000#32 = .error .unassignedOpcode ∧ decode 0xEF123456#32 = .error .unassignedOpcode ∧
    decode 0xFE000000#32 = .error .unassignedOpcode ∧ decode 0x24000000#32 = .error .unassignedOpcode := by decide
theorem test_decode_reserved :
    decode 0x00000001#32 = .error .reservedBits ∧ decode 0x01010003#32 = .error .reservedBits ∧
    decode 0x12000001#32 = .error .reservedBits ∧ decode 0xFF800000#32 = .error .reservedBits := by decide
theorem test_decode_table_word :
    decodeTableWord 32 0x11FF0000 = some (.pixel 0xFF#8 0#8 0#8) ∧ decodeTableWord 32 0x03000000 = none := by decide

/-! ## One step of each command (95_test_vectors.md section 2) -/

/-- The first step after reset runs the word offered, whatever the open parameters are. -/
theorem test_first_step_after_reset :
    ∃ t, step (State.reset.withFetchWord 32 0x0100FFFF) = .next t ∧ t.w = 0xFFFF#16 ∧ t.pos = 1 := ⟨_, rfl, rfl, rfl⟩

/-- V-C1, V-D19 -/
theorem test_nop : shown 0x00000000#32 (img 2 2 4 1) = (.img, [], 2#16) ∧
    shown 0x00000000#32 failed = (.error, [], 0#16) := by decide
/-- V-C2, V-C3 -/
theorem test_set_w : shown 0x01000003#32 idle = (.idle, [], 3#16) ∧
    shown 0x0100FFFF#32 (img 2 2 4 1) = (.img, [], 65535#16) ∧ (feed 0x0100FFFF#32 (img 2 2 4 1)).iw = 2#16 := by decide
/-- V-C4 -/
theorem test_set_h : (feed 0x0200FFFF#32 idle).h = 65535#16 ∧ (feed 0x0200FFFF#32 idle).w = 0#16 := by decide
/-- V-C5 to V-C7, V-D20 -/
theorem test_query :
    (shown 0xF0000000#32 idle).2.1 = [0xF0000000#32] ∧ (shown 0xF0000000#32 (img 2 2 4 1)).2.1 = [0xF0000001#32] ∧
    (shown 0xF0000000#32 (font .glyph 2 1 [⟨0x41#21, 3#16, []⟩])).2.1 = [0xF0000003#32] ∧
    (shown 0xF0000000#32 failed).2.1 = [0xF0020304#32] := by decide
/-- V-C9 -/
theorem test_abort_in_image :
    shown 0xFF000000#32 (img 2 2 4 3) = (.idle, [0xFF000000#32], 2#16) ∧
    (feed 0xFF000000#32 (img 2 2 4 3)).pixCount = 0#32 ∧ (feed 0xFF000000#32 (img 2 2 4 3)).out = [] := by decide
/-- V-D21 -/
theorem test_abort_leaves_error :
    (feed 0xFF000000#32 failed).errCode = 0#8 ∧ (feed 0xFF000000#32 failed).errOp = 0#8 ∧
    (feed 0xFF000000#32 failed).mode = .idle := by decide
/-- V-Q1, V-Q3 -/
theorem test_img_begin :
    (feed 0x10000004#32 { idle with w := 2, h := 2 }).iw = 2#16 ∧
    (feed 0x10000004#32 { idle with w := 2, h := 2 }).bpp = 2#4 ∧
    (feed 0x10000100#32 idle).colors = 256#9 ∧ (feed 0x10000100#32 idle).bpp = 8#4 := by decide
/-- V-Q4, V-Q6, V-Q7, V-D10 -/
theorem test_img_begin_errors :
    (shown 0x10000000#32 idle).2.1 = [0x10010000#32] ∧
    (shown 0x10000004#32 { idle with w := 2, h := 2, cfg := { demo with maxPixels := 3 } }).2.1 = [0x10060000#32] ∧
    (shown 0x10000003#32 { idle with w := 2, h := 2, cfg := { demo with maxPixels := 3 } }).2.1 = [0x10010000#32] ∧
    (shown 0x10000003#32 (img 2 2 4 0)).2.1 = [0x10040000#32] := by decide
/-- V-Q11 -/
theorem test_pixel :
    bufRead (feed 0x1100FF00#32 (img 2 2 4 1)).pixbuf 1 = some green ∧
    (feed 0x1100FF00#32 (img 2 2 4 1)).pixCount = 2#32 := by decide
/-- V-Q8, V-Q9, V-D8 -/
theorem test_pixel_errors :
    shown 0x11000000#32 (img 1 1 2 1) = (.error, [0x11050000#32], 1#16) ∧
    shown 0x11FFFFFF#32 (img 0 5 2 0) = (.error, [0x11050000#32], 0#16) ∧
    shown 0x11000000#32 idle = (.error, [0x11040000#32], 0#16) := by decide
/-- The last step of program P4's image: a black 1 by 1 image of 2 colours is `01 00 01 00 02 01 00 00 00 00 |00`. -/
theorem test_img_end :
    (feed 0x12000000#32 (img 1 1 2 1)).out.map Prod.fst =
      [1#8, 0#8, 1#8, 0#8, 2#8, 1#8, 0#8, 0#8, 0#8, 0#8, 0#8] ∧
    (feed 0x12000000#32 (img 1 1 2 1)).out.getLast? = some (0#8, true) ∧
    shown 0x12000000#32 (img 1 1 2 1) = (.idle, [0x12000000#32], 1#16) := by decide
/-- V-Q10, V-D6, V-D12 -/
theorem test_img_end_errors :
    (shown 0x12000000#32 (img 2 2 4 3)).2.1 = [0x12050000#32] ∧ (shown 0x12000001#32 idle).2.1 = [0x12030000#32] ∧
    (shown 0x12000000#32 (font .font 2 1 [])).2.1 = [0x12040000#32] := by decide
/-- V-F1 -/
theorem test_font_begin :
    (feed 0x20000001#32 { idle with h := 2 }).fbpp = 1#4 ∧ (feed 0x20000001#32 { idle with h := 2 }).fh = 2#16 := by
  decide
/-- V-F2, V-F3, V-D11 -/
theorem test_font_begin_errors :
    (shown 0x20000000#32 idle).2.1 = [0x20070000#32] ∧ (shown 0x20000009#32 idle).2.1 = [0x20070000#32] ∧
    (shown 0x20000001#32 (img 2 2 4 0)).2.1 = [0x20040000#32] := by decide
/-- The example of R229; V-F15, V-F16 -/
theorem test_glyph_begin :
    (feed 0x21000041#32 { font .font 2 1 [] with w := 3 }).glyphs = [⟨0x41#21, 3#16, []⟩] ∧
    (feed 0x21000041#32 { font .font 2 1 [] with w := 3 }).mode = .glyph ∧
    (feed 0x21000041#32 { font .font 0 1 [] with w := 3 }).mode = .font ∧
    (feed 0x21000041#32 (font .font 2 1 [])).mode = .font := by decide
/-- V-F4 to V-F8, V-F10, V-D13, V-D15 -/
theorem test_glyph_begin_errors :
    (shown 0x2100D800#32 (font .font 2 1 [])).2.1 = [0x21090000#32] ∧
    (shown 0x21110000#32 (font .font 2 1 [])).2.1 = [0x21090000#32] ∧
    (shown 0x21000042#32 (font .font 2 1 [glyphB])).2.1 = [0x210A0000#32] ∧
    (shown 0x21000041#32 (font .font 2 1 [glyphB])).2.1 = [0x210A0000#32] ∧
    (shown 0x21000041#32 { font .font 2 1 [] with w := 256, cfg := { demo with widthEntry := .one } }).2.1
      = [0x210C0000#32] ∧
    (shown 0x21000041#32 { font .font 2 1 [] with w := 3, cfg := { demo with maxGlyphBits := 5 } }).2.1
      = [0x21060000#32] ∧
    (shown 0x2100D800#32 (font .glyph 2 1 [⟨0x41#21, 3#16, []⟩])).2.1 = [0x210B0000#32] := by decide
/-- The example of R230; V-F12 -/
theorem test_sample :
    (feed 0x22000000#32 (font .glyph 2 1 [{ glyphA with samples := [1#8, 0#8, 1#8, 0#8, 1#8] }])).glyphs = [glyphA] ∧
    (feed 0x22000000#32 (font .glyph 2 1 [{ glyphA with samples := [1#8, 0#8, 1#8, 0#8, 1#8] }])).mode = .font ∧
    (feed 0x220000FF#32 (font .glyph 2 8 [⟨0x41#21, 1#16, []⟩])).glyphs = [⟨0x41#21, 1#16, [0xFF#8]⟩] := by decide
/-- V-F11, V-F13, V-F14 -/
theorem test_sample_errors :
    (shown 0x22000002#32 (font .glyph 2 1 [⟨0x41#21, 1#16, []⟩])).2.1 = [0x22080000#32] ∧
    (shown 0x22000100#32 (font .glyph 2 8 [⟨0x41#21, 1#16, []⟩])).2.1 = [0x22080000#32] ∧
    (shown 0x22000000#32 (font .font 2 1 [glyphA])).2.1 = [0x22040000#32] := by decide
/-- V-F18 -/
theorem test_font_end :
    (feed 0x23000000#32 (font .font 0 8 [])).out.map Prod.fst =
      [0x4D#8, 0x31#8, 0x32#8, 0x33#8, 8#8, 0#8, 0#8, 0#8, 0#8, 1#8, 0#8, 0#8] ∧
    shown 0x23000000#32 (font .font 0 8 []) = (.idle, [0x23000000#32], 0#16) := by decide
/-- V-D14 -/
theorem test_font_end_errors :
    (shown 0x23000000#32 (font .glyph 2 1 [⟨0x41#21, 3#16, []⟩])).2.1 = [0x230B0000#32] := by decide
/-- V-T3, V-T6, V-T8 -/
theorem test_xcode :
    (shown 0x30FF0000#32 idle).2.1 = [0x300000F8#32] ∧ (shown 0x30123456#32 (img 2 2 4 1)).2.1 = [0x3000AA11#32] ∧
    (shown 0x30070307#32 idle).2.1 = [0x30000000#32] ∧ (shown 0x30123456#32 failed).2.1 = [] := by decide
/-- V-D1, V-D4, V-D5, V-D16, V-D18 -/
theorem test_malformed_words :
    shown 0x03000000#32 idle = (.error, [0x03020000#32], 0#16) ∧
    shown 0x00000001#32 idle = (.error, [0x00030000#32], 0#16) ∧
    shown 0x01010003#32 idle = (.error, [0x01030000#32], 0#16) ∧
    shown 0x03000000#32 failed = (.error, [], 0#16) ∧ shown 0xF0000001#32 failed = (.error, [], 0#16) := by decide

/-! ## The units (95_test_vectors.md sections 2.2 to 2.6) -/

/-- V-T4, V-T9, V-T11 -/
theorem test_wire_colors :
    wireColor green = 0xE007#16 ∧ wireColor ⟨0x08#8, 0x04#8, 0x08#8⟩ = 0x2108#16 ∧
    wireColor ⟨0x7F#8, 0x7F#8, 0x7F#8⟩ = 0xEF7B#16 := by decide
/-- V-P1, V-P4, V-P7, V-P8 -/
theorem test_pack :
    pack [1, 0, 1, 1, 0, 0, 1, 0, 1] 1 = [0xB2#8, 0x80#8] ∧
    pack [1, 2, 3, 4, 5, 6, 7, 0] 3 = [0x29#8, 0xCB#8, 0xB8#8] ∧
    pack [0x3F, 0, 0x2A] 6 = [0xFC#8, 0x0A#8, 0x80#8] ∧ pack [0x55, 0x2A] 7 = [0xAA#8, 0xA8#8] := by decide
/-- V-G1, V-G2, V-G4 -/
theorem test_glyph_section :
    glyphSection false [glyphA, glyphB] 2 1 = [0xAB#8, 0x40#8] ∧ glyphOffset false [glyphA, glyphB] 2 1 1 = 6 ∧
    glyphSection true [glyphA, glyphB] 2 1 = [0xA8#8, 0xD0#8] ∧ glyphOffset true [glyphA, glyphB] 2 1 1 = 8 ∧
    glyphSection true [⟨0#21, 1#16, [3#8]⟩, ⟨1#21, 1#16, [1#8]⟩] 1 2 = [0xC0#8, 0x40#8] := by decide
/-- The OB table of section 2.4: MAXOFF 255 and 256 (one glyph before the last, 255 or 256 wide). -/
theorem test_offset_bytes :
    offsetBytes false [⟨0#21, 255#16, []⟩, ⟨1#21, 0#16, []⟩] 1 1 = 1 ∧
    offsetBytes false [⟨0#21, 256#16, []⟩, ⟨1#21, 0#16, []⟩] 1 1 = 2 ∧ offsetBytes false [] 1 1 = 1 := by decide
/-- V-R2, V-R3, V-R7 -/
theorem test_ref_quant :
    refQuant [red, red, blue, white] 2 = ([red, blue], [0, 0, 1, 0]) ∧
    refQuant [⟨0x80#8, 0x80#8, 0x80#8⟩, ⟨0x80#8, 0x80#8, 0x80#8⟩, black] 4 =
      ([⟨0x80#8, 0x80#8, 0x80#8⟩, black, black, black], [0, 0, 1]) ∧
    refQuant [black, white, ⟨0x7F#8, 0x7F#8, 0x7F#8⟩] 2 = ([black, white], [0, 1, 0]) := by decide
/-- V-S1 -/
theorem test_img_container :
    imgContainer 2 2 4 2 [red, green, blue, white] [0, 1, 2, 3] =
      [2#8, 0#8, 2#8, 0#8, 4#8, 2#8, 0xF8#8, 0#8, 0x07#8, 0xE0#8, 0#8, 0x1F#8, 0xFF#8, 0xFF#8, 0x1B#8] := by decide
/-- V-F20 (program P3) -/
theorem test_font_container :
    fontContainer demo [glyphA, glyphB] 2 1 =
      [0x4D#8, 0x31#8, 0x32#8, 0x33#8, 1#8, 2#8, 0#8, 3#8, 0#8, 1#8, 2#8, 0#8, 0x41#8, 0x42#8, 3#8, 0#8, 2#8, 0#8,
        0#8, 6#8, 0xAB#8, 0x40#8] := by decide
/-- The map of V-F19 -/
theorem test_utf8 :
    utf8 0x41 ++ utf8 0xE9 ++ utf8 0x20AC ++ utf8 0x1F600 =
      [0x41#8, 0xC3#8, 0xA9#8, 0xE2#8, 0x82#8, 0xAC#8, 0xF0#8, 0x9F#8, 0x98#8, 0x80#8] := by decide

/-! ## Witnesses: each statement's hypotheses are met together, each clause's at a boundary -/

/-- EncodeOfDecode -/
theorem witness_word_decodes : ∃ (w : Word) (i : Instr), decode w = .ok i := ⟨0x110A0B0C#32, _, rfl⟩

/-- MalformedWordsAreRejected: the three clauses, at the edges of the unassigned ranges and at one reserved bit -/
theorem witness_malformed :
    idle.mode ≠ .error ∧ decode 0x03000000#32 = .error .unassignedOpcode ∧
    decode 0xF1FFFFFF#32 = .error .unassignedOpcode ∧ decode 0x00000001#32 = .error .reservedBits ∧
    decode 0x01010000#32 = .error .reservedBits ∧ failed.mode = .error := by decide

/-- AssembledLinesDecode: operands at the end of each field, lines past it, the greatest raw word and the number after it,
and an element of each list a pseudo-command takes -/
theorem witness_assembled :
    (Opcode.nop ∈ [Opcode.nop] ∧ (65535 : Nat) ≤ 65535 ∧ (16777215 : Nat) ≤ 16777215 ∧ (255 : Nat) ≤ 255) ∧
    assemble (.cmd .setW (.num 65535)) ≠ none ∧ assemble (.cmd .setW (.num 65536)) = none ∧
    assemble (.cmd .abort .none) ≠ none ∧ assemble (.cmd .sample (.num 16777215)) ≠ none ∧
    assemble (.cmd .pixel (.num 16777215)) ≠ none ∧ assemble (.cmd .xcode (.rgb 255 255 255)) ≠ none ∧
    (0xFFFFFFFF#32).toNat + 1 = 2 ^ 32 ∧ [AsmOperand.rgb 1 2 3][0]? = some (.rgb 1 2 3) ∧ [(7 : Nat)][0]? = some 7 := by decide

/-- StepRunsDecodedCommand, PositionCountsWords -/
theorem witness_word_offered :
    ∃ (s t : State) (w : Word) (rest : List HostEvent) (i : Instr),
      s.rstN = true ∧ s.inbox = .command w :: rest ∧ decode w = .ok i ∧ step s = .next t ∧ t.w = 7#16 :=
  ⟨offerWord 0x01000007#32 idle, _, _, _, _, rfl, rfl, rfl, rfl, rfl⟩

/-- ErrorStateFiltersWords: in ERROR, the three words with an effect and a neighbour of each -/
theorem witness_error_filter :
    failed.mode = .error ∧ (0x00000001#32 ≠ 0x00000000#32 ∧ 0x00000001#32 ≠ 0xF0000000#32 ∧ 0x00000001#32 ≠ 0xFF000000#32) ∧
    (0xF0000001#32 ≠ 0x00000000#32 ∧ 0xF0000001#32 ≠ 0xF0000000#32 ∧ 0xF0000001#32 ≠ 0xFF000000#32) := by decide

/-- The block held in reset, with events to come -/
def held (l : List HostEvent) : State := { idle with rstN := false, inbox := l }

/-- WaitingKeepsEverything, both clauses: nothing to come, and a word alone in reset -/
theorem witness_waiting :
    idle.inbox = [] ∧ (held [.command 1#32]).rstN = false ∧ (held [.command 1#32]).inbox = [1#32].map .command := by decide

/-- A block with two output bytes and two responses, `n` of each taken, and one event to come. -/
def drained (e : HostEvent) (n : Nat) : State :=
  { idle with
    inbox := [e], out := [(1#8, false), (2#8, true)], rsp := [0xF0000000#32, 0xFF000000#32], outTaken := n,
    rspTaken := n }

/-- ConsumerTakesBytesInOrder, both clauses: the last element left, none left, and in reset -/
theorem witness_consumer :
    (drained .takeByte 1).inbox = .takeByte :: [] ∧ (drained .takeByte 1).rstN = true ∧ (held [.takeByte]).rstN = false ∧
    (drained .takeByte 1).out[(drained .takeByte 1).outTaken]? = some (2#8, true) ∧
    (drained .takeByte 2).out[(drained .takeByte 2).outTaken]? = none := by decide

/-- HostTakesResponsesInOrder, both clauses -/
theorem witness_host :
    (drained .takeResponse 1).inbox = .takeResponse :: [] ∧ (drained .takeResponse 1).rstN = true ∧
    (held [.takeResponse]).rstN = false ∧
    (drained .takeResponse 1).rsp[(drained .takeResponse 1).rspTaken]? = some 0xFF000000#32 ∧
    (drained .takeResponse 2).rsp[(drained .takeResponse 2).rspTaken]? = none := by decide

/-- ResetClearsEverything: out of reset, and in reset with a word offered before -/
theorem witness_reset :
    (drained .assertReset 1).inbox = ([] : List Word).map .command ++ .assertReset :: [] ∧
    (held [.command 1#32, .assertReset]).inbox = [1#32].map .command ++ .assertReset :: [] ∧
    (held [.command 1#32, .assertReset]).rstN = false := by decide

/-- ReleaseStartsRun: a word offered in reset -/
theorem witness_release :
    (held [.command 0x01000007#32, .releaseReset]).rstN = false ∧
    (held [.command 0x01000007#32, .releaseReset]).inbox = [0x01000007#32].map .command ++ .releaseReset :: [] := by
  decide

/-- Section 2.8: a reset in the middle of a transfer, then a word that waits for the release (R320). -/
theorem test_reset_holds :
    let a := got (step (drained .assertReset 1))
    let b := got (step { a with inbox := [.command 0x01000007#32, .releaseReset] })
    a.out = [] ∧ a.rsp = [] ∧ cmdReady a = false ∧ outOffered a = none ∧ b.rstN = true ∧ b.w = 0#16 ∧
    b.inbox = [.command 0x01000007#32] := by decide

/-- LevelsShowState, QueryAnswersStatus: a state of each mode is in `witness_modes` and `failed` -/
theorem test_levels :
    stateO (img 2 2 4 1) = 1#3 ∧ stateO (font .font 2 1 []) = 2#3 ∧ stateO (font .glyph 2 1 []) = 3#3 ∧
    errO failed = true ∧ errO idle = false := by decide

/-- IllegalCommandsRaise: a state of each mode outside ERROR -/
theorem witness_modes :
    idle.mode = .idle ∧ (img 2 2 4 1).mode = .img ∧ (font .font 2 1 []).mode = .font ∧
    (font .glyph 2 1 [⟨0x41#21, 3#16, []⟩]).mode = .glyph := by decide

/-- FailureIsOnlyErrorEntry: IMG_BEGIN 3 in IDLE -/
theorem witness_failure :
    ∃ (i : Instr) (s t : State), exec i s = .next t ∧ s.mode ≠ .error ∧ t.mode = .error :=
  ⟨.imgBegin 3#24, idle, _, rfl, by decide, by decide⟩

/-- ErrorIsLeftOnlyByAbortOrReset: both ways out -/
theorem witness_error_left :
    (∃ s t : State, s.mode = .error ∧ step s = .next t ∧ t.mode ≠ .error ∧ s.inbox = [.command 0xFF000000#32]) ∧
    (∃ s t : State, s.mode = .error ∧ step s = .next t ∧ t.mode ≠ .error ∧ s.inbox = [.assertReset]) :=
  ⟨⟨offerWord 0xFF000000#32 failed, _, rfl, rfl, by decide, rfl⟩,
    ⟨{ failed with inbox := [.assertReset] }, _, rfl, rfl, by decide, rfl⟩⟩

/-- SetCommandsWriteOneRegister, XcodeAnswersWireColor: inside and outside ERROR -/
theorem witness_error_or_not : failed.mode = .error ∧ (img 2 2 4 1).mode ≠ .error := by decide

/-- ValidColorCounts: the boundary exponents -/
theorem witness_exponents : (0 : Nat) ≤ 8 ∧ (8 : Nat) ≤ 8 ∧ bppOf (2 ^ 0) = 0 ∧ bppOf (2 ^ 8) = 8 := by decide

/-- QuantizerLaws: an image of four pixels, and one of none, at the least and the greatest count -/
theorem witness_quantizer :
    [red, green, blue, white].length = 2 * 2 ∧ ([] : List Rgb).length = 0 * 5 ∧ validColors 1 = true ∧
    validColors 256 = true := by decide

/-- RefQuantPicksNearestEntry: V-R2's last pixel, a tie -/
theorem witness_ref_quant : (1 : Nat) ≤ 2 ∧ [red, red, blue, white][3]? = some white := by decide

/-- ImgBeginOpensImage: the least and the greatest count, an empty image and one that just fits -/
theorem witness_img_begin :
    idle.mode = .idle ∧ (1#24).toNat = 2 ^ 0 ∧ (256#24).toNat = 2 ^ 8 ∧
    idle.w.toNat * idle.h.toNat ≤ idle.cfg.maxPixels.val ∧
    ({ idle with w := 4, h := 4 } : State).w.toNat * ({ idle with w := 4, h := 4 } : State).h.toNat
      = ({ idle with w := 4, h := 4 } : State).cfg.maxPixels.val := by decide

/-- ImgBeginRejects, both clauses: counts 0 and 257, and an image one column too wide -/
theorem witness_img_begin_rejects :
    (0#24).toNat ∉ [1, 2, 4, 8, 16, 32, 64, 128, 256] ∧ (257#24).toNat ∉ [1, 2, 4, 8, 16, 32, 64, 128, 256] ∧
    (256#24).toNat ∈ [1, 2, 4, 8, 16, 32, 64, 128, 256] ∧
    ({ idle with w := 17, h := 1 } : State).mode = .idle ∧
    ({ idle with w := 17, h := 1 } : State).cfg.maxPixels.val
      < ({ idle with w := 17, h := 1 } : State).w.toNat * ({ idle with w := 17, h := 1 } : State).h.toNat := by decide

/-- PixelWritesNextElement and ImgEndEmitsContainer, both clauses: one pixel missing, and none -/
theorem witness_image :
    (img 2 2 4 3).mode = .img ∧
    (img 2 2 4 3).pixCount.toNat ≠ (img 2 2 4 3).iw.toNat * (img 2 2 4 3).ih.toNat ∧
    (img 2 2 4 4).pixCount.toNat = (img 2 2 4 4).iw.toNat * (img 2 2 4 4).ih.toNat ∧
    (img 0 5 2 0).pixCount.toNat = (img 0 5 2 0).iw.toNat * (img 0 5 2 0).ih.toNat := by decide

/-- ImgContainerLayout, ReaderFindsImagePixels: V-S1, and a one-colour image of no pixels -/
theorem witness_img_container :
    (2 : Nat) < 65536 ∧ (2 : Nat) ≤ 8 ∧ [red, green, blue, white].length = 2 ^ 2 ∧
    [0, 1, 2, 3].length = 2 * 2 ∧ (∀ v ∈ [0, 1, 2, 3], v < 2 ^ 2) ∧ [red, green, blue, white][3]? = some white ∧
    (1 : Nat) < 2 ∧ [red].length = 2 ^ 0 ∧ ([] : List Nat).length = 0 * 65535 := by decide

/-- ImageOutputDependsOnImageOnly: two states that differ in W, RSP and OUT -/
theorem witness_same_image :
    let s := img 2 2 4 4
    let s' : State := { img 2 2 4 4 with w := 9, rsp := [0#32], out := [(7#8, true)] }
    s.mode = .img ∧ s'.mode = .img ∧ s.cfg = s'.cfg ∧ s.iw = s'.iw ∧ s.ih = s'.ih ∧ s.colors = s'.colors ∧
    s.bpp = s'.bpp ∧ s.pixCount = s'.pixCount ∧
    (∀ k, k < s.iw.toNat * s.ih.toNat → bufRead s.pixbuf k = bufRead s'.pixbuf k) := by
  exact ⟨rfl, rfl, rfl, rfl, rfl, rfl, rfl, rfl, fun _ _ => rfl⟩

/-- UnpackOfPack: V-P4 at k = 5 -/
theorem witness_unpack :
    (∀ v ∈ [1, 2, 3, 4, 5, 6, 7, 0], v < 2 ^ 3) ∧ [1, 2, 3, 4, 5, 6, 7, 0][5]? = some 6 := by decide

/-- FontBeginOpensFont, both clauses at 0, 1, 8 and 9 -/
theorem witness_font_begin :
    idle.mode = .idle ∧ 1 ≤ (1#24).toNat ∧ (8#24).toNat ≤ 8 ∧ (0#24).toNat = 0 ∧ 8 < (9#24).toNat := by decide

/-- GlyphBeginAppendsGlyph: 'B' after 'A', just within MAX_GLYPH_BITS -/
theorem witness_glyph_begin :
    let s : State := { font .font 2 1 [glyphA] with w := 2, cfg := { demo with maxGlyphBits := 10, maxGlyphs := 2 } }
    s.mode = .font ∧ (0x42#24).toNat ≤ 0x10FFFF ∧ ¬ (0xD800 ≤ (0x42#24).toNat ∧ (0x42#24).toNat ≤ 0xDFFF) ∧
    (∀ g, s.glyphs.getLast? = some g → g.code.toNat < (0x42#24).toNat) ∧
    (s.cfg.widthEntry = .one → s.w.toNat ≤ 255) ∧ s.glyphs.length + 1 ≤ s.cfg.maxGlyphs.val ∧
    mapLen s.glyphs + utf8len (0x42#24).toNat ≤ 65535 ∧
    sectionBits s.cfg.glyphByteAlign s.glyphs s.fh.toNat s.fbpp.toNat
      + padBits s.cfg.glyphByteAlign (s.w.toNat * s.fh.toNat * s.fbpp.toNat) ≤ s.cfg.maxGlyphBits.val := by
  refine ⟨rfl, by decide, by decide, ?_, by decide, by decide, by decide, by decide⟩
  intro g hg
  have : glyphA = g := Option.some.inj hg
  subst this
  decide

/-- GlyphBeginRejects, its four clauses: codes 0x110000 and 0xD800; 'A' again after 'A'; width 256 in one byte; six bits
with room for five -/
theorem witness_glyph_begin_rejects :
    let s : State := font .font 2 1 [glyphA]
    let narrow : State := { font .font 2 1 [] with w := 256, cfg := { demo with widthEntry := .one } }
    let full : State := { font .font 2 1 [] with w := 3, cfg := { demo with maxGlyphBits := 5 } }
    s.mode = .font ∧ ¬ ((0x110000#24).toNat ≤ 0x10FFFF) ∧ (0xD800 ≤ (0xD800#24).toNat ∧ (0xD800#24).toNat ≤ 0xDFFF) ∧
    (∃ g, s.glyphs.getLast? = some g ∧ ¬ g.code.toNat < (0x41#24).toNat) ∧
    (narrow.mode = .font ∧ narrow.glyphs.getLast? = none ∧ narrow.cfg.widthEntry = .one ∧ 255 < narrow.w.toNat) ∧
    (full.mode = .font ∧ full.glyphs.getLast? = none ∧ full.cfg.widthEntry ≠ .one ∧
      full.cfg.maxGlyphBits.val < sectionBits full.cfg.glyphByteAlign full.glyphs full.fh.toNat full.fbpp.toNat
        + padBits full.cfg.glyphByteAlign (full.w.toNat * full.fh.toNat * full.fbpp.toNat)) := by
  exact ⟨rfl, by decide, by decide, ⟨glyphA, rfl, by decide⟩, by decide, by decide⟩

/-- SampleExtendsOpenGlyph, both clauses: values 1 and 2 with FBPP = 1 -/
theorem witness_sample :
    let s := font .glyph 2 1 [glyphA, ⟨0x42#21, 2#16, [1#8]⟩]
    s.mode = .glyph ∧ s.glyphs = [glyphA] ++ [⟨0x42#21, 2#16, [1#8]⟩] ∧ (1#24).toNat < 2 ^ s.fbpp.toNat ∧
    2 ^ s.fbpp.toNat ≤ (2#24).toNat := by decide

/-- FontEndEmitsContainer -/
theorem witness_font_end : (font .font 2 1 [glyphA, glyphB]).mode = .font := by decide

/-- Utf8OfScalarValues: the ends of the four ranges, and beside the surrogates -/
theorem witness_scalar_values :
    ∀ c ∈ [0, 0x7F, 0x80, 0x7FF, 0x800, 0xD7FF, 0xE000, 0xFFFF, 0x10000, 0x10FFFF], scalarValue c = true := by decide

/-- OffsetEntryWidthIsLeast: a table with an offset that needs two bytes -/
theorem witness_offset_entry :
    let gs : List Glyph := [⟨0#21, 256#16, []⟩, ⟨1#21, 0#16, []⟩]
    sectionBits false gs 1 1 < 2 ^ 32 ∧ 1 < gs.length ∧ 1 < offsetBytes false gs 1 1 := by decide

/-- FontContainerLayout, ReaderFindsGlyphSamples, GlyphSectionOfTable: the font of program P3, with either alignment -/
theorem witness_font_container :
    (2 : Nat) < 65536 ∧ (1 : Nat) ≤ 8 ∧ mapLen [glyphA, glyphB] ≤ 65535 ∧
    sectionBits demo.glyphByteAlign [glyphA, glyphB] 2 1 < 2 ^ 32 ∧ demo.glyphByteAlign = false ∧
    sectionBits true [glyphA, glyphB] 2 1 < 2 ^ 32 ∧ ({ demo with glyphByteAlign := true } : Params).glyphByteAlign = true ∧
    [glyphA, glyphB] ≠ [] ∧ mapLen [] ≤ 65535 ∧ sectionBits demo.glyphByteAlign [] 2 1 < 2 ^ 32 ∧
    (∀ g ∈ [glyphA, glyphB],
      scalarValue g.code.toNat = true ∧ GlyphDone 2 g ∧ ∀ v ∈ g.samples, v.toNat < 2 ^ 1) ∧
    (demo.widthEntry = .one → ∀ g ∈ [glyphA, glyphB], g.width.toNat ≤ 255) ∧
    [glyphA, glyphB][1]? = some glyphB ∧ glyphB.samples[3]? = some 1#8 := by
  unfold GlyphDone
  decide

/-- ReaderFindsGlyphOfCharacter: program P3's codes ascend, and 'C' has no glyph (the rest as `witness_font_container`) -/
theorem witness_font_characters :
    [glyphA, glyphB].Pairwise (fun g g' => g.code.toNat < g'.code.toNat) ∧
    (∀ g ∈ [glyphA, glyphB], g.code.toNat ≠ 0x43) := by decide

/-- Section 1.9: glyph 'B' of program P3's container starts at bit 1 of byte 20 and is `1101`. -/
theorem test_reader_of_font :
    let c := fontContainer demo [glyphA, glyphB] 2 1
    fontGlyphOf c 0x42 = some 1 ∧ fontGlyphOf c 0x43 = none ∧ fontWidthOf 2 c 1 = 2 ∧ fontOffsetOf 2 c 1 = 6 ∧
    fontBitmapStart 2 c 1 = (20, 1) ∧ fontBitmapOf 2 c 1 = [true, true, false, true] := by decide

/-- The map of V-F19 holds four characters. -/
theorem test_map_characters :
    (utf8Chars (utf8 0x41 ++ utf8 0xE9 ++ utf8 0x20AC ++ utf8 0x1F600)).map utf8Value = [0x41, 0xE9, 0x20AC, 0x1F600] := by
  decide

/-- EmissionMarksLastByteOnly: the shortest container -/
theorem witness_emission : 1 ≤ [red].length ∧ (markLast [1#8, 2#8])[1]? = some (2#8, true) := by decide

/-- RegisterWriters, OnlyEndCommandsEmit, ResponsesOfCommands, FifoDepthsAreUnobservable: a command that answers and
emits -/
theorem witness_exec_next :
    ∃ t, exec .imgEnd (img 1 1 2 1) = .next t ∧ t.out ≠ [] ∧ t.rsp ≠ [] := ⟨_, rfl, by decide, by decide⟩

/-- RegisterWriters, every clause: a command in no writer list that enters no error, beside one that enters ERROR -/
theorem witness_register_writers :
    (∃ t, exec (.xcode 1#8 2#8 3#8) (img 2 2 4 1) = .next t ∧ ¬ ((img 2 2 4 1).mode ≠ .error ∧ t.mode = .error)) ∧
    (∃ t, exec .imgEnd (img 2 2 4 1) = .next t ∧ (img 2 2 4 1).mode ≠ .error ∧ t.mode = .error) :=
  ⟨⟨_, rfl, by decide⟩, ⟨_, rfl, by decide, by decide⟩⟩

/-- StepKeepsErrorRegisters, StepKeepsOutputWhole: ERROR, and a full image before IMG_END -/
theorem witness_partial_invariants :
    ErrorRegisters failed ∧ WholeOutput (offerWord 0x12000000#32 (img 1 1 2 1)) ∧
    ∃ t, step (offerWord 0x12000000#32 (img 1 1 2 1)) = .next t := by
  refine ⟨by unfold ErrorRegisters; decide, ?_, _, rfl⟩
  intro x hx
  cases hx

/-- StepKeepsInvariant: an image of two pixels with one given and the next offered -/
theorem witness_invariant :
    BlockInvariant (offerWord 0x11FF0000#32 (img 2 1 2 1)) ∧
    ∃ t, step (offerWord 0x11FF0000#32 (img 2 1 2 1)) = .next t ∧ t.pixCount = 2#32 := by
  refine ⟨⟨?_, ?_, ?_, ?_, ?_, ?_, ?_, ?_⟩, _, rfl, by decide⟩
  · show Memory.wf [(0, _)]
    exact List.pairwise_singleton _ _
  · unfold ErrorRegisters; decide
  · exact ⟨fun h => absurd rfl h, fun _ _ => rfl⟩
  · intro _
    refine ⟨by decide, by decide, by decide, by decide, ?_⟩
    intro k hk
    have h1 : (offerWord 0x11FF0000#32 (img 2 1 2 1)).pixCount.toNat = 1 := by decide
    have : k = 0 := by omega
    subst this
    decide
  · intro h
    rcases h with h | h <;> exact absurd h (by decide)
  · intro x hx
    cases hx
  · exact ⟨Nat.le_refl _, Nat.le_refl _⟩
  · intro h
    cases h

/-- StepKeepsInvariant: a font with a glyph open -/
theorem witness_invariant_font :
    BlockInvariant (offerWord 0x22000001#32 (font .glyph 2 1 [glyphA, ⟨0x42#21, 2#16, [1#8]⟩])) ∧
    ∃ t, step (offerWord 0x22000001#32 (font .glyph 2 1 [glyphA, ⟨0x42#21, 2#16, [1#8]⟩])) = .next t ∧
      t.mode = .glyph := by
  refine ⟨⟨List.Pairwise.nil, ?_, ?_, ?_, ?_, ?_, ?_, ?_⟩, _, rfl, by decide⟩
  · unfold ErrorRegisters; decide
  · exact ⟨fun _ => rfl, fun _ h => absurd rfl h⟩
  · intro h
    exact absurd h (by decide)
  · intro _
    refine ⟨by decide, by decide, by decide, by decide, by decide, by decide, by decide, by decide, by decide, ?_, ?_⟩
    · intro h
      exact absurd h (by decide)
    · intro _
      refine ⟨[glyphA], ⟨0x42#21, 2#16, [1#8]⟩, rfl, ?_, by decide⟩
      unfold GlyphDone
      decide
  · intro x hx
    cases hx
  · exact ⟨Nat.le_refl _, Nat.le_refl _⟩
  · intro h
    cases h

end Sys2Proof.Tests
end

section
/-! PROOFS. The state (10_state.md): what a command that completes leaves and which fields it writes, what each event of the
environment does, and how a predicate kept by every part of a step is kept by the step. -/

namespace Sys2Proof.Proofs.State

open Sys2Proof.Machine Sys2Proof.Safety

/-! ## What a completing command leaves -/

/-- The state a command leaves when its rule completes (`commandRule_ok`). -/
def commandEffect : Instr → State → State
  | .nop, s => s
  | .setW v, s => { s with w := v }
  | .setH v, s => { s with h := v }
  | .imgBegin c, s =>
    { s with
      iw := s.w, ih := s.h, colors := c.setWidth 9, bpp := BitVec.ofNat 4 (bppOf c.toNat), pixCount := 0#32,
      mode := .img }
  | .pixel r g b, s =>
    { s with pixbuf := bufWrite s.pixbuf s.pixCount.toNat ⟨r, g, b⟩, pixCount := s.pixCount + 1#32 }
  | .imgEnd, s => respond Opcode.imgEnd.code 0#8 0#16 { emit (openImage s) s with pixCount := 0#32, mode := .idle }
  | .fontBegin n, s => { s with fbpp := n.setWidth 4, fh := s.h, glyphs := [], mode := .font }
  | .glyphBegin c, s =>
    { s with
      glyphs := s.glyphs ++ [⟨c.setWidth 21, s.w, []⟩], mode := if s.w.toNat * s.fh.toNat = 0 then .font else .glyph }
  | .sample v, s =>
    { s with
      glyphs := addSample (v.setWidth 8) s.glyphs,
      mode := if lastComplete (addSample (v.setWidth 8) s.glyphs) s.fh.toNat then .font else s.mode }
  | .fontEnd, s => respond Opcode.fontEnd.code 0#8 0#16 { emit (openFont s) s with glyphs := [], mode := .idle }
  | .xcode r g b, s => respond Opcode.xcode.code 0#8 (wireColor ⟨r, g, b⟩) s
  | .query, s => respond Opcode.query.code s.errCode (statusPayload s) s
  | .abort, s => respond Opcode.abort.code 0#8 0#16 (leaveError s)

theorem commandRule_ok {i : Instr} {s t : State} (h : commandRule i s = .ok t) : t = commandEffect i s := by
  cases i with
  | imgBegin c => obtain ⟨-, -, ht⟩ := imgBeginRule_ok h; exact ht
  | pixel r g b => obtain ⟨-, ht⟩ := pixelRule_ok h; exact ht
  | imgEnd => obtain ⟨-, ht⟩ := imgEndRule_ok h; exact ht
  | fontBegin n => obtain ⟨-, -, ht⟩ := fontBeginRule_ok h; exact ht
  | glyphBegin c => obtain ⟨-, -, -, -, ht⟩ := glyphBeginRule_ok h; exact ht
  | sample v => obtain ⟨-, ht⟩ := sampleRule_ok h; exact ht
  | fontEnd => exact fontEndRule_ok h
  | _ => cases h; rfl

/-- What a command can do, with its effect written out: it is discarded, it enters ERROR from another state, or its rule
completes (40_dispatch.md R121 to R124). -/
theorem exec_outcomes {i : Instr} {s t : State} (h : exec i s = .next t) :
    t = s ∨ (s.mode ≠ .error ∧ ∃ e, t = raiseError e i.opcode.code s) ∨
    (legality i.opcode s.mode = .perform ∧ commandRule i s = .ok t) := by
  rcases exec_cases h with ⟨-, ht⟩ | ⟨e, hl, ht⟩ | ⟨e, hl, hb, ht⟩ | ⟨hl, hb⟩
  · exact .inl ht
  · refine .inr (.inl ⟨fun hm => ?_, e, ht⟩)
    rw [hm, legality_error] at hl
    split at hl <;> cases hl
  · refine .inr (.inl ⟨fun hm => ?_, e, ht⟩)
    rw [hm] at hl
    cases i with
    | nop | query | abort => cases hb
    | _ => cases hl
  · exact .inr (.inr ⟨hl, hb⟩)

/-- The one mode in which the table of 40_dispatch.md R123 has a command performed, none for the six commands that are
performed in each mode of that table. -/
def homeMode : Opcode → Option Mode
  | .imgBegin | .fontBegin => some .idle
  | .pixel | .imgEnd => some .img
  | .glyphBegin | .fontEnd => some .font
  | .sample => some .glyph
  | .nop | .setW | .setH | .xcode | .query | .abort => none

theorem mode_of_performed {op : Opcode} {m n : Mode} (hl : legality op m = .perform) (hm : homeMode op = some n) :
    m = n := by
  cases op <;> cases m <;> cases hl <;> cases hm <;> rfl

/-- `t` has every field of `s` that no command writes: the configuration (70_reset_and_hazards.md R323), the position, the
level of `rst_n`, the events and the counts of what was taken. -/
structure SameEnvironment (s t : State) : Prop where
  cfg : t.cfg = s.cfg
  pos : t.pos = s.pos
  rstN : t.rstN = s.rstN
  inbox : t.inbox = s.inbox
  outTaken : t.outTaken = s.outTaken
  rspTaken : t.rspTaken = s.rspTaken

theorem SameEnvironment.refl (s : State) : SameEnvironment s s := ⟨rfl, rfl, rfl, rfl, rfl, rfl⟩

theorem raiseError_sameEnvironment (e : ErrorKind) (opc : Byte) (s : State) :
    SameEnvironment s (raiseError e opc s) := ⟨rfl, rfl, rfl, rfl, rfl, rfl⟩

theorem commandEffect_sameEnvironment (i : Instr) (s : State) : SameEnvironment s (commandEffect i s) := by
  cases i <;> exact ⟨rfl, rfl, rfl, rfl, rfl, rfl⟩

theorem exec_sameEnvironment {i : Instr} {s t : State} (h : exec i s = .next t) : SameEnvironment s t := by
  rcases exec_outcomes h with rfl | ⟨-, e, rfl⟩ | ⟨-, hb⟩
  · exact .refl _
  · exact raiseError_sameEnvironment _ _ _
  · exact commandRule_ok hb ▸ commandEffect_sameEnvironment i s

theorem stepWord_sameEnvironment {w : Word} {s t : State} (h : stepWord w s = .next t) : SameEnvironment s t := by
  rcases stepWord_cases w s with ⟨i, -, hw⟩ | ⟨m, -, hw⟩ <;> rw [hw] at h
  · exact exec_sameEnvironment h
  · injection h with h
    subst h
    rcases rejectWord_cases m w s with ⟨-, hr⟩ | ⟨-, hr⟩ <;> rw [hr]
    · exact .refl s
    · exact raiseError_sameEnvironment _ _ _

/-! ## Which fields a completing command writes -/

section writers
variable {i : Instr} (s : State)

theorem commandEffect_w (hi : i.opcode ≠ .setW) : (commandEffect i s).w = s.w := by
  cases i with
  | setW => exact absurd rfl hi
  | _ => rfl

theorem commandEffect_h (hi : i.opcode ≠ .setH) : (commandEffect i s).h = s.h := by
  cases i with
  | setH => exact absurd rfl hi
  | _ => rfl

theorem commandEffect_imageSize (hi : i.opcode ≠ .imgBegin) :
    (commandEffect i s).iw = s.iw ∧ (commandEffect i s).ih = s.ih ∧ (commandEffect i s).colors = s.colors ∧
      (commandEffect i s).bpp = s.bpp := by
  cases i with
  | imgBegin => exact absurd rfl hi
  | _ => exact ⟨rfl, rfl, rfl, rfl⟩

theorem commandEffect_fontSize (hi : i.opcode ≠ .fontBegin) :
    (commandEffect i s).fbpp = s.fbpp ∧ (commandEffect i s).fh = s.fh := by
  cases i with
  | fontBegin => exact absurd rfl hi
  | _ => exact ⟨rfl, rfl⟩

theorem commandEffect_pixbuf (hi : i.opcode ≠ .pixel) : (commandEffect i s).pixbuf = s.pixbuf := by
  cases i with
  | pixel => exact absurd rfl hi
  | _ => rfl

theorem commandEffect_pixCount (hi : i.opcode ∉ [.imgBegin, .pixel, .imgEnd, .abort]) :
    (commandEffect i s).pixCount = s.pixCount := by
  cases i with
  | imgBegin | pixel | imgEnd | abort => exact absurd (by simp [Instr.opcode]) hi
  | _ => rfl

theorem commandEffect_glyphs (hi : i.opcode ∉ [.fontBegin, .glyphBegin, .sample, .fontEnd, .abort]) :
    (commandEffect i s).glyphs = s.glyphs := by
  cases i with
  | fontBegin | glyphBegin | sample | fontEnd | abort => exact absurd (by simp [Instr.opcode]) hi
  | _ => rfl

theorem commandEffect_errors (hi : i.opcode ≠ .abort) :
    (commandEffect i s).errCode = s.errCode ∧ (commandEffect i s).errOp = s.errOp := by
  cases i with
  | abort => exact absurd rfl hi
  | _ => exact ⟨rfl, rfl⟩

theorem commandEffect_mode
    (hi : i.opcode ∉ [.imgBegin, .imgEnd, .fontBegin, .glyphBegin, .sample, .fontEnd, .abort]) :
    (commandEffect i s).mode = s.mode := by
  cases i with
  | imgBegin | imgEnd | fontBegin | glyphBegin | sample | fontEnd | abort => exact absurd (by simp [Instr.opcode]) hi
  | _ => rfl

/-- An element of OUT is appended by the two END commands alone, and then one whole container (10_state.md R44). -/
theorem commandEffect_out :
    (commandEffect i s).out = s.out ∨
    (i = .imgEnd ∧ (commandEffect i s).mode = .idle ∧ (commandEffect i s).out = s.out ++ markLast (openImage s)) ∨
    (i = .fontEnd ∧ (commandEffect i s).mode = .idle ∧ (commandEffect i s).out = s.out ++ markLast (openFont s)) := by
  cases i with
  | imgEnd => exact .inr (.inl ⟨rfl, rfl, rfl⟩)
  | fontEnd => exact .inr (.inr ⟨rfl, rfl, rfl⟩)
  | _ => exact .inl rfl

end writers

/-- Settles O52: a discarded command changes nothing, error entry is set apart, and a rule that completes writes the fields
its command's writer lists name. -/
theorem registerWriters : Obligations.RegisterWriters := by
  unfold Obligations.RegisterWriters
  intro i s t h entered
  obtain ⟨hcfg, hpos, hrstN, hinbox, hout, hrsp⟩ := exec_sameEnvironment h
  rcases exec_outcomes h with rfl | ⟨hm, e, rfl⟩ | ⟨-, hb⟩
  · simp
  · have hentered : entered := ⟨hm, rfl⟩
    simp [hentered]
  · obtain rfl := commandRule_ok hb
    exact ⟨commandEffect_w s, commandEffect_h s, commandEffect_imageSize s, commandEffect_fontSize s,
      fun hi k => by rw [commandEffect_pixbuf s hi], fun _ => commandEffect_pixCount s,
      fun _ => commandEffect_glyphs s, fun _ => commandEffect_errors s, fun _ => commandEffect_mode s,
      hcfg, hpos, hrstN, hinbox, hout, hrsp⟩

/-- Settles O53. -/
theorem onlyEndCommandsEmit : Obligations.OnlyEndCommandsEmit := by
  unfold Obligations.OnlyEndCommandsEmit
  intro i s t h
  rcases exec_outcomes h with rfl | ⟨-, e, rfl⟩ | ⟨hl, hb⟩
  · exact .inl rfl
  · exact .inl rfl
  · obtain rfl := commandRule_ok hb
    rcases commandEffect_out s (i := i) with ho | ⟨rfl, hm, ho⟩ | ⟨rfl, hm, ho⟩
    · exact .inl ho
    · exact .inr (.inl ⟨rfl, mode_of_performed hl rfl, hm, ho⟩)
    · exact .inr (.inr ⟨rfl, mode_of_performed hl rfl, hm, ho⟩)

/-- Settles O54: error entry answers the code it records, and of the rules that complete five answer, each in the form of
40_dispatch.md R126. -/
theorem responsesOfCommands : Obligations.ResponsesOfCommands := by
  unfold Obligations.ResponsesOfCommands
  intro i s t h
  rcases exec_outcomes h with rfl | ⟨hm, e, rfl⟩ | ⟨-, hb⟩
  · exact .inl rfl
  · exact .inr ⟨errorCode e, 0#16, rfl, .inr (.inr (.inr ⟨hm, rfl, rfl, rfl, rfl⟩))⟩
  · obtain rfl := commandRule_ok hb
    cases i with
    | imgEnd | fontEnd | abort => exact .inr ⟨0#8, 0#16, rfl, .inl ⟨by simp, rfl, rfl⟩⟩
    | xcode r g b => exact .inr ⟨0#8, wireColor ⟨r, g, b⟩, rfl, .inr (.inl ⟨r, g, b, rfl, rfl, rfl⟩)⟩
    | query => exact .inr ⟨s.errCode, statusPayload s, rfl, .inr (.inr (.inl ⟨rfl, rfl, rfl⟩))⟩
    | _ => exact .inl rfl

/-! ## The FIFO depths (10_state.md R34) -/

/-- The same state of a block built with other FIFO depths. -/
def withFifoDepths (a b c : PNat) (s : State) : State :=
  { s with cfg := { s.cfg with cmdFifoDepth := a, outFifoDepth := b, rspFifoDepth := c } }

theorem commandRule_withFifoDepths (a b c : PNat) (i : Instr) (s : State) :
    commandRule i (withFifoDepths a b c s) = (commandRule i s).map (withFifoDepths a b c) := by
  cases i with
  | imgBegin | pixel | imgEnd | fontBegin | glyphBegin | sample =>
    simp only [commandRule, imgBeginRule, pixelRule, imgEndRule, fontBeginRule, glyphBeginRule, sampleRule,
      apply_ite (Except.map (withFifoDepths a b c))]
    rfl
  | _ => rfl

/-- Settles O55: the change of depths decides no legality, and commutes with error entry and with every rule. -/
theorem fifoDepthsAreUnobservable : Obligations.FifoDepthsAreUnobservable := by
  unfold Obligations.FifoDepthsAreUnobservable
  intro i s t a b c h
  have hcfg := (exec_sameEnvironment h).cfg
  show exec i (withFifoDepths a b c s) = _
  rw [← hcfg]
  show _ = Host.Outcome.next (withFifoDepths a b c t)
  have hb := commandRule_withFifoDepths a b c i s
  rcases exec_cases h with ⟨hl, rfl⟩ | ⟨e, hl, rfl⟩ | ⟨e, hl, he, rfl⟩ | ⟨hl, ht⟩
  · exact exec_discard hl
  · exact exec_illegal hl
  · rw [he] at hb
    exact exec_error hl hb
  · rw [ht] at hb
    exact exec_ok hl hb

/-! ## A predicate kept by every part of a step is kept by every step -/

/-- `P` is kept by each thing a step is made of: taking an event from the list, counting a word or a transfer, the level of
reset, error entry, and a rule that completes where its command is performed. No word is run and nothing is transferred while
`rst_n` is 0 (70_reset_and_hazards.md R320). -/
structure KeptByParts (P : State → Prop) : Prop where
  inbox : ∀ s rest, P s → P { s with inbox := rest }
  pos : ∀ s, s.rstN = true → P s → P { s with pos := s.pos + 1 }
  outTaken : ∀ s, s.rstN = true → s.outTaken < s.out.length → P s → P { s with outTaken := s.outTaken + 1 }
  rspTaken : ∀ s, s.rstN = true → s.rspTaken < s.rsp.length → P s → P { s with rspTaken := s.rspTaken + 1 }
  reset : ∀ s, P s → P (resetBlock s)
  release : ∀ s, P s → P (releaseBlock s)
  raise : ∀ s e opc, s.rstN = true → P s → P (raiseError e opc s)
  rule : ∀ i s, s.rstN = true → legality i.opcode s.mode = .perform → commandRule i s = .ok (commandEffect i s) →
    P s → P (commandEffect i s)

theorem KeptByParts.exec {P : State → Prop} (hP : KeptByParts P) {i : Instr} {s t : State}
    (h : exec i s = .next t) (hr : s.rstN = true) (hs : P s) : P t := by
  rcases exec_outcomes h with rfl | ⟨-, e, rfl⟩ | ⟨hl, hb⟩
  · exact hs
  · exact hP.raise s e _ hr hs
  · obtain rfl := commandRule_ok hb
    exact hP.rule i s hr hl hb hs

theorem KeptByParts.stepWord {P : State → Prop} (hP : KeptByParts P) {w : Word} {s t : State}
    (h : stepWord w s = .next t) (hr : s.rstN = true) (hs : P s) : P t := by
  rcases stepWord_cases w s with ⟨i, -, hw⟩ | ⟨m, -, hw⟩ <;> rw [hw] at h
  · exact hP.exec h hr hs
  · injection h with h
    subst h
    rcases rejectWord_cases m w s with ⟨-, hj⟩ | ⟨-, hj⟩ <;> rw [hj]
    · exact hs
    · exact hP.raise s _ _ hr hs

theorem KeptByParts.step {P : State → Prop} (hP : KeptByParts P) {s t : State} (h : step s = .next t) (hs : P s) :
    P t := by
  rcases step_cases s with ⟨-, he⟩ | ⟨w, rest, hr, -, he⟩ | ⟨rest, -, he⟩ | ⟨rest, -, he⟩ | ⟨rest, -, he⟩ |
    ⟨rest, -, he⟩ <;> rw [he] at h
  case inr.inl => exact hP.stepWord h hr (hP.pos { s with inbox := rest } hr (hP.inbox s rest hs))
  all_goals
    injection h with h
    subst h
  · exact hs
  · rcases takeOutByte_cases { s with inbox := rest } with ⟨hr, hlt, ht⟩ | ⟨-, ht⟩ <;> rw [ht]
    · exact hP.outTaken _ hr hlt (hP.inbox s rest hs)
    · exact hP.inbox s rest hs
  · rcases takeResponseWord_cases { s with inbox := rest } with ⟨hr, hlt, ht⟩ | ⟨-, ht⟩ <;> rw [ht]
    · exact hP.rspTaken _ hr hlt (hP.inbox s rest hs)
    · exact hP.inbox s rest hs
  · exact hP.reset _ (hP.inbox s rest hs)
  · exact hP.release _ (hP.inbox s rest hs)

/-! ## The error registers (10_state.md R31) -/

theorem errorCode_range (e : ErrorKind) : errorCode e ≠ 0#8 ∧ (errorCode e).toNat ≤ 0x0C := by
  cases e <;> decide

theorem raiseError_errorRegisters (e : ErrorKind) (opc : Byte) (s : State) : ErrorRegisters (raiseError e opc s) := by
  obtain ⟨hne, hle⟩ := errorCode_range e
  exact ⟨iff_of_false hne (fun h => h rfl), fun h => absurd rfl h, hle⟩

theorem errorRegisters_of_zero {s : State} (hm : s.mode ≠ .error) (hc : s.errCode = 0#8) (ho : s.errOp = 0#8) :
    ErrorRegisters s :=
  ⟨iff_of_true hc hm, fun _ => ho, by simp [hc]⟩

/-- Of the rules that complete ABORT's alone leaves ERROR, and none enters it (60_exceptions.md R286). -/
theorem commandEffect_mode_eq_error {i : Instr} {s : State} (hi : i ≠ .abort)
    (hl : legality i.opcode s.mode = .perform) : (commandEffect i s).mode = .error ↔ s.mode = .error := by
  cases i with
  | abort => exact absurd rfl hi
  | imgBegin | imgEnd | fontBegin | fontEnd => simp [commandEffect, mode_of_performed hl rfl]
  | glyphBegin c => simp only [commandEffect, mode_of_performed hl rfl]; split <;> simp
  | sample v => simp only [commandEffect, mode_of_performed hl rfl]; split <;> simp
  | _ => exact Iff.rfl

theorem errorRegisters_keptByParts : KeptByParts ErrorRegisters where
  inbox _ _ h := h
  pos _ _ h := h
  outTaken _ _ _ h := h
  rspTaken _ _ _ h := h
  reset s _ := errorRegisters_of_zero (by simp) rfl rfl
  release _ h := h
  raise s e opc _ _ := raiseError_errorRegisters e opc s
  rule i s _ hl _ h := by
    by_cases hi : i = .abort
    · subst hi
      exact errorRegisters_of_zero (by simp [commandEffect]) rfl rfl
    · have hop : i.opcode ≠ .abort := by cases i <;> simp_all [Instr.opcode]
      obtain ⟨hc, ho⟩ := commandEffect_errors s hop
      unfold ErrorRegisters
      rw [ne_eq, commandEffect_mode_eq_error hi hl, hc, ho]
      exact h

/-- Settles O58. -/
theorem stepKeepsErrorRegisters : Obligations.StepKeepsErrorRegisters :=
  fun _ _ hs h => errorRegisters_keptByParts.step h hs

/-! ## What each event of the environment does (20_memory.md R79) -/

theorem step_command {s : State} {w : Word} {rest : List HostEvent} (hr : s.rstN = true)
    (hi : s.inbox = .command w :: rest) : step s = stepWord w { s with inbox := rest, pos := s.pos + 1 } := by
  simp only [step, fetch, hr, hi, nextEvent_true]
  rfl

/-- The step of an event that the block deals with at its ports. -/
theorem step_handled {s t : State} {e : HostEvent} {rest : List HostEvent}
    (hn : nextEvent s.rstN s.inbox = some (e, rest)) (he : atPorts e { s with inbox := rest } = .handled t) :
    step s = .next t := by
  simp only [step, fetch, hn, he]

/-- An event other than a word is next wherever it comes first, in reset or out of it. -/
theorem nextEvent_first (b : Bool) {e : HostEvent} (rest : List HostEvent) (he : ∀ w, e ≠ .command w) :
    nextEvent b (e :: rest) = some (e, rest) := by
  cases b with
  | true => exact nextEvent_true e rest
  | false => exact nextEvent_held [] e rest he

/-- Settles O6. -/
theorem stepRunsDecodedCommand : Obligations.StepRunsDecodedCommand := by
  unfold Obligations.StepRunsDecodedCommand
  intro s w rest hr hi
  have hstep := step_command hr hi
  exact ⟨hstep, fun i hd => by rw [hstep, stepWord, hd]⟩

/-- Settles O7: running a word leaves the position and the events as taking it left them. -/
theorem positionCountsWords : Obligations.PositionCountsWords := by
  unfold Obligations.PositionCountsWords
  intro s t w rest hr hi h
  rw [step_command hr hi] at h
  have ht := stepWord_sameEnvironment h
  exact ⟨ht.pos, ht.inbox⟩

theorem step_takeByte {s : State} {rest : List HostEvent} (hi : s.inbox = .takeByte :: rest) :
    step s = .next (takeOutByte { s with inbox := rest }) :=
  step_handled (by rw [hi]; exact nextEvent_first _ rest (by simp)) rfl

theorem step_takeResponse {s : State} {rest : List HostEvent} (hi : s.inbox = .takeResponse :: rest) :
    step s = .next (takeResponseWord { s with inbox := rest }) :=
  step_handled (by rw [hi]; exact nextEvent_first _ rest (by simp)) rfl

/-- Settles O11. -/
theorem consumerTakesBytesInOrder : Obligations.ConsumerTakesBytesInOrder := by
  unfold Obligations.ConsumerTakesBytesInOrder
  intro s rest hi
  rw [step_takeByte hi]
  refine ⟨fun hr x hx => ⟨_, rfl, ?_, ?_⟩, fun hnone => ?_⟩
  · simp [takeOutByte, outOffered, hr, hx]
  · simp [takeOutByte, outOffered, outReceived, hr, hx, List.take_add_one]
  · rcases hnone with hr | hx
    · simp [takeOutByte, outOffered, hr]
    · simp [takeOutByte, outOffered, hx]

/-- Settles O12. -/
theorem hostTakesResponsesInOrder : Obligations.HostTakesResponsesInOrder := by
  unfold Obligations.HostTakesResponsesInOrder
  intro s rest hi
  rw [step_takeResponse hi]
  refine ⟨fun hr x hx => ⟨?_, ?_⟩, fun hnone => ?_⟩
  · simp [takeResponseWord, rspOffered, hr, hx]
  · simp [List.take_add_one, hx]
  · rcases hnone with hr | hx
    · simp [takeResponseWord, rspOffered, hr]
    · simp [takeResponseWord, rspOffered, hx]

/-- Settles O13: out of reset the event is the first, and in reset the words before it are kept in front. -/
theorem resetClearsEverything : Obligations.ResetClearsEverything := by
  unfold Obligations.ResetClearsEverything
  intro s ws rest hi hws
  have hn : nextEvent s.rstN s.inbox = some (.assertReset, ws.map .command ++ rest) := by
    rw [hi]
    cases hr : s.rstN with
    | true => rw [hws hr]; rfl
    | false => exact nextEvent_held ws _ rest (by simp)
  exact step_handled hn rfl

/-- Settles O16. -/
theorem resetValues : Obligations.ResetValues := by
  unfold Obligations.ResetValues
  exact ⟨rfl, rfl, rfl, rfl, rfl, rfl, rfl, rfl, rfl, rfl, rfl, rfl, rfl, rfl, rfl, rfl, rfl⟩

/-- Settles O17. -/
theorem levelsShowState : Obligations.LevelsShowState := by
  unfold Obligations.LevelsShowState stateO errO
  intro s
  cases s.mode <;> decide

end Sys2Proof.Proofs.State
end

section
/-! PROOFS. The invariant of the block, part by part (10_state.md R24 to R31, R44; 70_reset_and_hazards.md R320): what an open
image and an open font keep under their commands, and each part kept by every step on its own. -/

namespace Sys2Proof.Proofs.State

open Sys2Proof.Machine Sys2Proof.Safety

/-! ## Operands and the glyph table -/

/-- A valid count is the power of two its logarithm gives (41_quantizer.md R140, R142): if `c` were above `2^k`, bit `k` of
both `c` and `c - 1` would be set. -/
theorem validColors_eq_two_pow {c : Nat} (h : validColors c = true) : c = 2 ^ bppOf c := by
  simp only [validColors, Bool.and_eq_true, decide_eq_true_eq, beq_iff_eq] at h
  obtain ⟨⟨hpos, -⟩, hand⟩ := h
  have hle : 2 ^ Nat.log2 c ≤ c := Nat.log2_self_le (by omega)
  have hlt : c < 2 ^ (Nat.log2 c + 1) := Nat.lt_log2_self
  by_contra hne
  have hne : c ≠ 2 ^ Nat.log2 c := hne
  have hc := Nat.testBit_of_two_pow_le_and_two_pow_add_one_gt hle hlt
  have hp := Nat.testBit_of_two_pow_le_and_two_pow_add_one_gt (n := c - 1) (i := Nat.log2 c) (by omega) (by omega)
  have hb := Nat.testBit_and c (c - 1) (Nat.log2 c)
  simp [hand, hc, hp] at hb

theorem validColors_le {c : Nat} (h : validColors c = true) : c ≤ 256 := by
  simp only [validColors, Bool.and_eq_true, decide_eq_true_eq] at h
  obtain ⟨⟨-, hle⟩, -⟩ := h
  exact hle

theorem bppOf_le {c : Nat} (h : validColors c = true) : bppOf c ≤ 8 := by
  have hle : 2 ^ bppOf c ≤ 2 ^ 8 := (validColors_eq_two_pow h) ▸ validColors_le h
  exact (Nat.pow_le_pow_iff_right (by decide)).mp hle

theorem scalarValue_le {c : Nat} (h : scalarValue c = true) : c ≤ 0x10FFFF := by
  simp only [scalarValue, Bool.and_eq_true, decide_eq_true_eq] at h
  obtain ⟨hle, -⟩ := h
  exact hle

@[simp] theorem mapLen_nil : mapLen [] = 0 := rfl

theorem mapLen_append (gs : List Glyph) (g : Glyph) : mapLen (gs ++ [g]) = mapLen gs + utf8len g.code.toNat := by
  simp [mapLen]

@[simp] theorem sectionBits_nil (align : Bool) (fh b : Nat) : sectionBits align [] fh b = 0 := rfl

theorem sectionBits_append (align : Bool) (gs : List Glyph) (g : Glyph) (fh b : Nat) :
    sectionBits align (gs ++ [g]) fh b = sectionBits align gs fh b + padBits align (needBits g fh b) := by
  simp [sectionBits]

@[simp] theorem lastComplete_append (gs : List Glyph) (g : Glyph) (fh : Nat) :
    lastComplete (gs ++ [g]) fh = (g.samples.length == g.width.toNat * fh) := by
  simp [lastComplete, glyphNeed]

/-- In a table of ascending codes a code that is in order is above every code (44_serializer.md R229). -/
theorem code_lt_of_inOrder {gs : List Glyph} {c : Nat} (hasc : gs.Pairwise (fun a b => a.code.toNat < b.code.toNat))
    (ho : outOfOrder gs c = false) : ∀ g ∈ gs, g.code.toNat < c := by
  rcases List.eq_nil_or_concat gs with rfl | ⟨xs, x, rfl⟩
  · simp
  · rw [List.concat_eq_append] at *
    have hx : x.code.toNat < c := by simpa [outOfOrder] using ho
    obtain ⟨-, -, hlt⟩ := List.pairwise_append.mp hasc
    intro g hg
    rcases List.mem_append.mp hg with hg | hg
    · exact Nat.lt_trans (hlt g hg x (by simp)) hx
    · rw [List.mem_singleton.mp hg]
      exact hx

/-- The three capacities hold with the glyph that GLYPH_BEGIN adds (44_serializer.md R229). -/
theorem capacities_of_not_overCapacity {s : State} {c : Nat} (h : overCapacity s c = false) :
    s.glyphs.length + 1 ≤ s.cfg.maxGlyphs.val ∧ mapLen s.glyphs + utf8len c ≤ 65535 ∧
    sectionBits s.cfg.glyphByteAlign s.glyphs s.fh.toNat s.fbpp.toNat
        + padBits s.cfg.glyphByteAlign (s.w.toNat * s.fh.toNat * s.fbpp.toNat) ≤ s.cfg.maxGlyphBits.val := by
  simp only [overCapacity, Bool.or_eq_false_iff, decide_eq_false_iff_not, Nat.not_lt] at h
  obtain ⟨⟨hn, hm⟩, hb⟩ := h
  exact ⟨hn, hm, hb⟩

/-! ## The open asset (10_state.md R24, R25, R28, R29) -/

/-- What STATE says of the open image and the open font: the part of the invariant that is about an asset. -/
structure AssetInvariant (s : State) : Prop where
  closed : NothingLeftOpen s
  image : s.mode = .img → ImageOpen s
  font : s.mode = .font ∨ s.mode = .glyph → FontOpen s

theorem assetInvariant_of_noAsset {s : State} (hm : s.mode = .idle ∨ s.mode = .error) (hp : s.pixCount = 0#32)
    (hg : s.glyphs = []) : AssetInvariant s where
  closed := ⟨fun _ => hp, fun _ _ => hg⟩
  image h := by rcases hm with hm | hm <;> rw [hm] at h <;> cases h
  font h := by rcases hm with hm | hm <;> rw [hm] at h <;> simp at h

theorem assetInvariant_of_image {s : State} (hm : s.mode = .img) (hi : ImageOpen s) (hg : s.glyphs = []) :
    AssetInvariant s where
  closed := ⟨fun h => absurd hm h, fun _ _ => hg⟩
  image _ := hi
  font h := by rw [hm] at h; simp at h

theorem assetInvariant_of_font {s : State} (hm : s.mode = .font ∨ s.mode = .glyph) (hf : FontOpen s)
    (hp : s.pixCount = 0#32) : AssetInvariant s where
  closed := ⟨fun _ => hp, fun h1 h2 => (hm.elim h1 h2).elim⟩
  image h := by rw [h] at hm; simp at hm
  font _ := hf

/-- `t` has the configuration, STATE and every register and buffer of an open asset as `s` has them. -/
structure SameAsset (s t : State) : Prop where
  cfg : t.cfg = s.cfg
  mode : t.mode = s.mode
  iw : t.iw = s.iw
  ih : t.ih = s.ih
  colors : t.colors = s.colors
  bpp : t.bpp = s.bpp
  pixCount : t.pixCount = s.pixCount
  pixbuf : t.pixbuf = s.pixbuf
  fbpp : t.fbpp = s.fbpp
  fh : t.fh = s.fh
  glyphs : t.glyphs = s.glyphs

theorem imageOpen_congr {s t : State} (h : SameAsset s t) (hi : ImageOpen s) : ImageOpen t := by
  obtain ⟨hcfg, -, hiw, hih, hcolors, hbpp, hcount, hbuf, -, -, -⟩ := h
  have hpx : imagePixels t = imagePixels s := by rw [imagePixels, hiw, hih, imagePixels]
  constructor <;> simp only [hcfg, hcolors, hbpp, hcount, hbuf, hpx]
  exacts [hi.colors_valid, hi.colors_pow, hi.count_le, hi.capacity, hi.written]

theorem fontOpen_congr {s t : State} (h : SameAsset s t) (hf : FontOpen s) : FontOpen t := by
  obtain ⟨hcfg, hmode, -, -, -, -, -, -, hfbpp, hfh, hglyphs⟩ := h
  constructor <;> simp only [hcfg, hmode, hfbpp, hfh, hglyphs]
  exacts [hf.bpp_pos, hf.bpp_le, hf.ascending, hf.scalar, hf.sample_lt, hf.width_fits, hf.glyphs_le, hf.map_le,
    hf.bits_le, hf.all_done, hf.last_open]

theorem assetInvariant_congr {s t : State} (h : SameAsset s t) (ha : AssetInvariant s) : AssetInvariant t where
  closed := by
    unfold NothingLeftOpen
    rw [h.mode, h.pixCount, h.glyphs]
    exact ha.closed
  image hm := imageOpen_congr h (ha.image (h.mode ▸ hm))
  font hm := fontOpen_congr h (ha.font (h.mode ▸ hm))

/-! ### The image commands (41_quantizer.md R147, R148) -/

theorem imgBegin_opens {c : BitVec 24} {s t : State} (h : imgBeginRule c s = .ok t) :
    ImageOpen (commandEffect (.imgBegin c) s) := by
  obtain ⟨hvalid, hcap, -⟩ := imgBeginRule_ok h
  have hle := validColors_le hvalid
  have hbpp := bppOf_le hvalid
  have hcolors : (c.setWidth 9).toNat = c.toNat := by
    rw [BitVec.toNat_setWidth, Nat.mod_eq_of_lt (by omega)]
  have hexp : (BitVec.ofNat 4 (bppOf c.toNat)).toNat = bppOf c.toNat := by
    rw [BitVec.toNat_ofNat, Nat.mod_eq_of_lt (by omega)]
  exact {
    colors_valid := by simpa only [commandEffect, hcolors] using hvalid
    colors_pow := by simpa only [commandEffect, hcolors, hexp] using validColors_eq_two_pow hvalid
    count_le := Nat.zero_le _
    capacity := hcap
    written := fun k hk => absurd hk (Nat.not_lt_zero k) }

/-- One more pixel fits PIX_COUNT: an image has at most `65535 * 65535` pixels. -/
theorem pixCount_succ {s : State} (hi : ImageOpen s) :
    (s.pixCount + 1#32).toNat = s.pixCount.toNat + 1 := by
  have hcount := hi.count_le
  have hcap := hi.capacity
  have hmax := s.cfg.maxPixels.isLt
  rw [BitVec.toNat_add, BitVec.toNat_ofNat]
  omega

theorem pixel_keeps_image {r g b : Byte} {s t : State} (h : pixelRule ⟨r, g, b⟩ s = .ok t) (hi : ImageOpen s) :
    ImageOpen (commandEffect (.pixel r g b) s) := by
  obtain ⟨hne, -⟩ := pixelRule_ok h
  have hsucc := pixCount_succ hi
  have hcount := hi.count_le
  refine ⟨hi.colors_valid, hi.colors_pow, ?_, hi.capacity, fun k hk => ?_⟩
  · show (s.pixCount + 1#32).toNat ≤ imagePixels s
    omega
  · have hk : k < (s.pixCount + 1#32).toNat := hk
    show (bufRead (bufWrite s.pixbuf s.pixCount.toNat ⟨r, g, b⟩) k).isSome = true
    by_cases hlast : k = s.pixCount.toNat
    · rw [hlast, bufRead_bufWrite_same, Option.isSome_some]
    · rw [bufRead_bufWrite_other _ _ hlast]
      exact hi.written k (by omega)

/-! ### The font commands (44_serializer.md R228 to R230) -/

theorem fontBegin_opens {n : BitVec 24} {s t : State} (h : fontBeginRule n s = .ok t) :
    FontOpen (commandEffect (.fontBegin n) s) := by
  obtain ⟨hpos, hle, -⟩ := fontBeginRule_ok h
  have hfbpp : (commandEffect (.fontBegin n) s).fbpp.toNat = n.toNat := by
    rw [commandEffect, BitVec.toNat_setWidth, Nat.mod_eq_of_lt (by omega)]
  have hglyphs : (commandEffect (.fontBegin n) s).glyphs = [] := rfl
  have hmode : (commandEffect (.fontBegin n) s).mode = .font := rfl
  constructor <;> simp only [hglyphs, hfbpp, hmode]
  case bpp_pos => exact hpos
  case bpp_le => exact hle
  all_goals simp

theorem glyphBegin_keeps_font {c : BitVec 24} {s t : State} (h : glyphBeginRule c s = .ok t) (hm : s.mode = .font)
    (hf : FontOpen s) : FontOpen (commandEffect (.glyphBegin c) s) := by
  obtain ⟨hscalar, horder, hwidth, hcap, -⟩ := glyphBeginRule_ok h
  obtain ⟨hlen, hmap, hbits⟩ := capacities_of_not_overCapacity hcap
  have hle := scalarValue_le hscalar
  have hcode : (c.setWidth 21).toNat = c.toNat := by
    rw [BitVec.toNat_setWidth, Nat.mod_eq_of_lt (by omega)]
  have hdone := hf.all_done hm
  constructor <;> simp only [commandEffect, List.forall_mem_append, List.forall_mem_singleton, hcode]
  case bpp_pos => exact hf.bpp_pos
  case bpp_le => exact hf.bpp_le
  case ascending =>
    refine List.pairwise_append.mpr ⟨hf.ascending, List.pairwise_singleton _ _, fun a ha b hb => ?_⟩
    rw [List.mem_singleton.mp hb, hcode]
    exact code_lt_of_inOrder hf.ascending horder a ha
  case scalar => exact ⟨hf.scalar, hscalar⟩
  case sample_lt => exact ⟨hf.sample_lt, by simp⟩
  case width_fits => exact fun hone => ⟨hf.width_fits hone, Nat.le_of_not_lt fun hlt => hwidth ⟨hone, hlt⟩⟩
  case glyphs_le => rw [List.length_append]; exact hlen
  case map_le => rw [mapLen_append, hcode]; exact hmap
  case bits_le => rw [sectionBits_append]; exact hbits
  case all_done =>
    intro hmode
    refine ⟨hdone, ?_⟩
    split at hmode
    · exact Eq.symm ‹s.w.toNat * s.fh.toNat = 0›
    · cases hmode
  case last_open =>
    intro hmode
    split at hmode
    · cases hmode
    · exact ⟨s.glyphs, _, rfl, hdone, Nat.pos_of_ne_zero ‹_›⟩

/-- A sample extends the last glyph, and the last one that glyph needs closes it. -/
theorem commandEffect_sample {v : BitVec 24} {s : State} {gs : List Glyph} {g : Glyph} (hm : s.mode = .glyph)
    (hgs : s.glyphs = gs ++ [g]) :
    (commandEffect (.sample v) s).glyphs = gs ++ [{ g with samples := g.samples ++ [v.setWidth 8] }] ∧
    (commandEffect (.sample v) s).mode =
      if g.samples.length + 1 = g.width.toNat * s.fh.toNat then .font else .glyph := by
  simp [commandEffect, hgs, hm, addSample_append]

theorem sample_keeps_font {v : BitVec 24} {s t : State} (h : sampleRule v s = .ok t) (hm : s.mode = .glyph)
    (hf : FontOpen s) : FontOpen (commandEffect (.sample v) s) := by
  obtain ⟨hlt, -⟩ := sampleRule_ok h
  obtain ⟨gs, g, hgs, hdone, hopen⟩ := hf.last_open hm
  obtain ⟨hpos, hle, hasc, hscalar, hsample, hwidth, hlen, hmap, hbits, -, -⟩ := hf
  have hbyte : (v.setWidth 8).toNat < 2 ^ s.fbpp.toNat := by
    rw [BitVec.toNat_setWidth]
    exact Nat.lt_of_le_of_lt (Nat.mod_le _ _) hlt
  simp only [hgs, List.forall_mem_append, List.forall_mem_singleton, List.pairwise_append, List.pairwise_singleton,
    List.length_append, mapLen_append, sectionBits_append] at hasc hscalar hsample hwidth hlen hmap hbits
  obtain ⟨htable, hmode⟩ := commandEffect_sample (v := v) hm hgs
  have hcfg : (commandEffect (.sample v) s).cfg = s.cfg := rfl
  have hfh : (commandEffect (.sample v) s).fh = s.fh := rfl
  have hfbpp : (commandEffect (.sample v) s).fbpp = s.fbpp := rfl
  constructor <;> simp only [htable, hmode, hcfg, hfh, hfbpp, List.forall_mem_append, List.forall_mem_singleton,
    List.pairwise_append, List.pairwise_singleton, List.length_append, mapLen_append, sectionBits_append]
  case bpp_pos => exact hpos
  case bpp_le => exact hle
  case ascending => exact hasc
  case scalar => exact hscalar
  case sample_lt => 
    obtain ⟨hbefore, hlast⟩ := hsample
    exact ⟨hbefore, hlast, hbyte⟩
  case width_fits => exact hwidth
  case glyphs_le => exact hlen
  case map_le => exact hmap
  case bits_le => exact hbits
  case all_done =>
    intro hfont
    refine ⟨hdone, ?_⟩
    split at hfont
    · rw [GlyphDone, List.length_append]
      assumption
    · cases hfont
  case last_open =>
    intro hglyph
    split at hglyph
    · cases hglyph
    · refine ⟨gs, _, rfl, hdone, ?_⟩
      rw [List.length_append]
      exact Nat.lt_of_le_of_ne hopen ‹_›

theorem assetInvariant_keptByParts : KeptByParts AssetInvariant where
  inbox _ _ := assetInvariant_congr (by constructor <;> rfl)
  pos _ _ := assetInvariant_congr (by constructor <;> rfl)
  outTaken _ _ _ := assetInvariant_congr (by constructor <;> rfl)
  rspTaken _ _ _ := assetInvariant_congr (by constructor <;> rfl)
  reset _ _ := assetInvariant_of_noAsset (.inl rfl) rfl rfl
  release _ := assetInvariant_congr (by constructor <;> rfl)
  raise _ _ _ _ _ := assetInvariant_of_noAsset (.inr rfl) rfl rfl
  rule i s _ hl hb ha := by
    obtain ⟨hcount, htable⟩ := ha.closed
    cases i with
    | nop | setW | setH | xcode | query => exact assetInvariant_congr (by constructor <;> rfl) ha
    | abort => exact assetInvariant_of_noAsset (.inl rfl) rfl rfl
    | imgBegin c =>
      have hm : s.mode = .idle := mode_of_performed hl rfl
      exact assetInvariant_of_image rfl (imgBegin_opens hb) (htable (by simp [hm]) (by simp [hm]))
    | pixel r g b =>
      have hm : s.mode = .img := mode_of_performed hl rfl
      exact assetInvariant_of_image hm (pixel_keeps_image hb (ha.image hm)) (htable (by simp [hm]) (by simp [hm]))
    | imgEnd =>
      have hm : s.mode = .img := mode_of_performed hl rfl
      exact assetInvariant_of_noAsset (.inl rfl) rfl (htable (by simp [hm]) (by simp [hm]))
    | fontBegin n =>
      have hm : s.mode = .idle := mode_of_performed hl rfl
      exact assetInvariant_of_font (.inl rfl) (fontBegin_opens hb) (hcount (by simp [hm]))
    | glyphBegin c =>
      have hm : s.mode = .font := mode_of_performed hl rfl
      refine assetInvariant_of_font ?_ (glyphBegin_keeps_font hb hm (ha.font (.inl hm))) (hcount (by simp [hm]))
      exact ite_eq_or_eq ..
    | sample v =>
      have hm : s.mode = .glyph := mode_of_performed hl rfl
      refine assetInvariant_of_font ?_ (sample_keeps_font hb hm (ha.font (.inr hm))) (hcount (by simp [hm]))
      simp only [commandEffect, hm]
      exact ite_eq_or_eq ..
    | fontEnd =>
      have hm : s.mode = .font := mode_of_performed hl rfl
      exact assetInvariant_of_noAsset (.inl rfl) (hcount (by simp [hm])) rfl

/-! ## The buffer, the ports, the output and held reset -/

theorem memory_keptByParts : KeptByParts (fun s => Memory.wf s.pixbuf) where
  inbox _ _ h := h
  pos _ _ h := h
  outTaken _ _ _ h := h
  rspTaken _ _ _ h := h
  reset s _ := reset_memory_wf s.cfg
  release _ h := h
  raise _ _ _ _ h := h
  rule i s _ _ _ h := by
    by_cases hi : i.opcode = .pixel
    · cases i with
      | pixel => exact bufWrite_wf _ _ h
      | _ => cases hi
    · rw [commandEffect_pixbuf s hi]
      exact h

/-- The last element of an emission is marked (44_serializer.md R232). -/
theorem markLast_getLast {bs : List Byte} {x : Byte × Bool} (h : (markLast bs).getLast? = some x) : x.2 = true := by
  induction bs with
  | nil => cases h
  | cons b rest ih =>
    cases rest with
    | nil => cases h; rfl
    | cons c rest =>
      refine ih ?_
      have hne : markLast (c :: rest) ≠ [] := by cases rest <;> simp [markLast]
      rwa [markLast, List.getLast?_cons_of_ne_nil hne] at h

theorem getLast_append_markLast {out : List (Byte × Bool)} {bs : List Byte}
    (hout : ∀ x, out.getLast? = some x → x.2 = true) :
    ∀ x, (out ++ markLast bs).getLast? = some x → x.2 = true := by
  intro x hx
  rw [List.getLast?_append] at hx
  cases hb : (markLast bs).getLast? with
  | none => exact hout x (by simpa [hb] using hx)
  | some y =>
    have hxy : y = x := by simpa [hb] using hx
    exact hxy ▸ markLast_getLast hb

theorem wholeOutput_keptByParts : KeptByParts WholeOutput where
  inbox _ _ h := h
  pos _ _ h := h
  outTaken _ _ _ h := h
  rspTaken _ _ _ h := h
  reset _ _ := by simp [WholeOutput]
  release _ h := h
  raise _ _ _ _ h := h
  rule i s _ _ _ h := by
    unfold WholeOutput
    rcases commandEffect_out s (i := i) with ho | ⟨-, -, ho⟩ | ⟨-, -, ho⟩ <;> rw [ho]
    · exact h
    · exact getLast_append_markLast h
    · exact getLast_append_markLast h

theorem commandEffect_out_length (i : Instr) (s : State) : s.out.length ≤ (commandEffect i s).out.length := by
  rcases commandEffect_out s (i := i) with ho | ⟨-, -, ho⟩ | ⟨-, -, ho⟩ <;> simp [ho]

theorem commandEffect_rsp_length (i : Instr) (s : State) : s.rsp.length ≤ (commandEffect i s).rsp.length := by
  cases i with
  | imgEnd | fontEnd | xcode | query | abort => simp [commandEffect]
  | _ => exact Nat.le_refl _

theorem portsInOrder_keptByParts : KeptByParts PortsInOrder where
  inbox _ _ h := h
  pos _ _ h := h
  outTaken _ _ hlt h := ⟨hlt, h.2⟩
  rspTaken _ _ hlt h := ⟨h.1, hlt⟩
  reset _ _ := ⟨Nat.le_refl _, Nat.le_refl _⟩
  release _ h := h
  raise _ _ _ _ h := ⟨h.1, Nat.le_trans h.2 (by simp)⟩
  rule i s _ _ _ h := by
    have henv := commandEffect_sameEnvironment i s
    unfold PortsInOrder
    rw [henv.outTaken, henv.rspTaken]
    exact ⟨Nat.le_trans h.1 (commandEffect_out_length i s), Nat.le_trans h.2 (commandEffect_rsp_length i s)⟩

theorem heldAtReset_of_released {s : State} (h : s.rstN = true) : HeldAtReset s := by
  intro hr
  rw [h] at hr
  cases hr

theorem heldAtReset_keptByParts : KeptByParts HeldAtReset where
  inbox _ rest h hr := congrArg (fun x : State => { x with inbox := rest }) (h hr)
  pos _ hr _ := heldAtReset_of_released hr
  outTaken _ hr _ _ := heldAtReset_of_released hr
  rspTaken _ hr _ _ := heldAtReset_of_released hr
  reset _ _ _ := rfl
  release _ _ := heldAtReset_of_released rfl
  raise _ _ _ hr _ := heldAtReset_of_released hr
  rule i s hr _ _ _ := heldAtReset_of_released ((commandEffect_sameEnvironment i s).rstN.trans hr)

/-! ## The invariant of the block -/

/-- Settles O57: each part of the invariant is kept on its own. -/
theorem stepKeepsInvariant : Obligations.StepKeepsInvariant := by
  unfold Obligations.StepKeepsInvariant
  intro s t hs h
  obtain ⟨hclosed, himage, hfont⟩ := assetInvariant_keptByParts.step h ⟨hs.closed, hs.image, hs.font⟩
  exact {
    memory := memory_keptByParts.step h hs.memory
    errors := errorRegisters_keptByParts.step h hs.errors
    closed := hclosed
    image := himage
    font := hfont
    output := wholeOutput_keptByParts.step h hs.output
    ports := portsInOrder_keptByParts.step h hs.ports
    held := heldAtReset_keptByParts.step h hs.held }

/-- Settles O56. -/
theorem resetMeetsInvariant : Obligations.ResetMeetsInvariant := by
  unfold Obligations.ResetMeetsInvariant
  obtain ⟨hclosed, himage, hfont⟩ : AssetInvariant State.reset := assetInvariant_of_noAsset (.inl rfl) rfl rfl
  exact {
    memory := reset_memory_wf _
    errors := errorRegisters_of_zero (by simp [State.reset, State.resetWith]) rfl rfl
    closed := hclosed
    image := himage
    font := hfont
    output := fun x hx => by cases hx
    ports := ⟨Nat.le_refl _, Nat.le_refl _⟩
    held := heldAtReset_of_released rfl }

end Sys2Proof.Proofs.State
end

section
/-! PROOFS. How bits lie in bytes and fields in containers (20_memory.md R65, R66; 42_packer.md R170 to R173): what a reader
gets from a bit string that has been packed, and from a block of bytes at a known offset. -/

namespace Sys2Proof.Proofs.Memory

open Sys2Proof.Machine

/-! ## A block at an offset

`xs <+: ys.drop o` says that `ys` holds the block `xs` from position `o` on. -/

theorem prefix_drop_trans {α : Type} {xs ys zs : List α} {i o : Nat} (hx : xs <+: ys.drop i) (hy : ys <+: zs.drop o) :
    xs <+: zs.drop (o + i) := by
  rw [← List.drop_drop]
  exact hx.trans (hy.drop i)

theorem getD_of_prefix_drop {α : Type} {xs ys : List α} {o i : Nat} (h : xs <+: ys.drop o) (hi : i < xs.length)
    (d : α) : ys.getD (o + i) d = xs.getD i d := by
  obtain ⟨rest, hrest⟩ := h
  rw [List.getD_eq_getElem?_getD, ← List.getElem?_drop, ← hrest, List.getElem?_append_left hi,
    ← List.getD_eq_getElem?_getD]

/-- In a concatenation each part stands where the parts before it end. -/
theorem prefix_drop_flatMap {α β : Type} (f : α → List β) {xs : List α} {i : Nat} {x : α} (h : xs[i]? = some x) :
    f x <+: (xs.flatMap f).drop ((xs.take i).flatMap f).length := by
  obtain ⟨hi, rfl⟩ := List.getElem?_eq_some_iff.mp h
  have hsplit : xs.flatMap f = (xs.take i).flatMap f ++ (f xs[i] ++ (xs.drop (i + 1)).flatMap f) := by
    rw [← List.flatMap_cons, ← List.flatMap_append, ← List.drop_eq_getElem_cons hi, List.take_append_drop]
  rw [hsplit, List.drop_left]
  exact List.prefix_append _ _

theorem length_flatMap_of_const {α β : Type} {f : α → List β} {n : Nat} (xs : List α) (h : ∀ x ∈ xs, (f x).length = n) :
    (xs.flatMap f).length = n * xs.length := by
  rw [List.length_flatMap, List.map_congr_left h, List.map_const', List.sum_replicate, smul_eq_mul, Nat.mul_comm]

/-- In a concatenation of parts of `n` elements, part `i` stands at `n · i`. -/
theorem prefix_drop_flatMap_of_const {α β : Type} {f : α → List β} {n i : Nat} {xs : List α} {x : α}
    (hn : ∀ y ∈ xs, (f y).length = n) (h : xs[i]? = some x) : f x <+: (xs.flatMap f).drop (n * i) := by
  obtain ⟨hi, -⟩ := List.getElem?_eq_some_iff.mp h
  have hlen : ((xs.take i).flatMap f).length = n * i := by
    rw [length_flatMap_of_const _ fun y hy => hn y (List.mem_of_mem_take hy), List.length_take, Nat.min_eq_left hi.le]
  exact hlen ▸ prefix_drop_flatMap f h

/-! ## Bits as a number -/

/-- The number whose `n` bits are `f 0` to `f (n - 1)`, most significant first: the sum that `byteOfBits` and `readBits`
both write (`byteOfBits_eq`, `readBits_eq`). -/
def bitsValue (f : Nat → Bool) (n : Nat) : Nat := ((List.range n).map (fun j => (f j).toNat <<< (n - 1 - j))).sum

theorem byteOfBits_eq (bs : List Bool) (i : Nat) :
    byteOfBits bs i = BitVec.ofNat 8 (bitsValue (fun j => bs.getD (8 * i + j) false) 8) := rfl

theorem readBits_eq (bytes : List Byte) (s b : Nat) :
    readBits bytes s b = bitsValue (fun j => streamBit bytes (s + j)) b := rfl

theorem bitsValue_succ (f : Nat → Bool) (n : Nat) : bitsValue f (n + 1) = Nat.bit (f n) (bitsValue f n) := by
  have hshift : ∀ j ∈ List.range n, (f j).toNat <<< (n + 1 - 1 - j) = 2 * (f j).toNat <<< (n - 1 - j) := by
    intro j hj
    have hj := List.mem_range.mp hj
    rw [show n + 1 - 1 - j = n - 1 - j + 1 by omega, Nat.shiftLeft_succ]
  rw [bitsValue, List.range_succ, List.map_append, List.sum_append, List.map_congr_left hshift, List.sum_map_mul_left,
    Nat.bit_val, bitsValue]
  simp

theorem testBit_bitsValue (f : Nat → Bool) (n k : Nat) :
    (bitsValue f n).testBit k = (decide (k < n) && f (n - 1 - k)) := by
  induction n generalizing k with
  | zero => simp [bitsValue]
  | succ n ih =>
    rw [bitsValue_succ]
    cases k with
    | zero => simp
    | succ k =>
      rw [Nat.testBit_bit_succ, ih, show n + 1 - 1 - (k + 1) = n - 1 - k by omega]
      simp

/-! ## Bit strings in bytes -/

theorem getLsbD_byteOfBits (bs : List Bool) (i : Nat) {j : Nat} (hj : j < 8) :
    (byteOfBits bs i).getLsbD (7 - j) = bs.getD (8 * i + j) false := by
  rw [byteOfBits_eq, BitVec.getLsbD_ofNat, testBit_bitsValue, show 8 - 1 - (7 - j) = j by omega]
  simp [show 7 - j < 8 by omega]

@[simp] theorem length_toBytes (bs : List Bool) : (toBytes bs).length = ceilDiv bs.length 8 := by simp [toBytes]

theorem streamBit_toBytes (bs : List Bool) (s : Nat) : streamBit (toBytes bs) s = bs.getD s false := by
  by_cases hs : s / 8 < ceilDiv bs.length 8
  · have hbyte : (toBytes bs).getD (s / 8) 0#8 = byteOfBits bs (s / 8) := by
      simp [toBytes, List.getD_eq_getElem?_getD, hs]
    rw [streamBit, hbyte, getLsbD_byteOfBits _ _ (Nat.mod_lt _ (by decide)), Nat.div_add_mod]
  · have hend : bs.length ≤ s := by
      rw [ceilDiv] at hs
      omega
    rw [streamBit, List.getD_eq_default _ _ (by simpa using hs), List.getD_eq_default _ _ hend, BitVec.getLsbD_zero]

/-- Settles O39: a byte holds its eight bits from bit 7 down, and past the last bit everything is 0. -/
theorem bitsFillBytesFromTheTop : Obligations.BitsFillBytesFromTheTop := by
  unfold Obligations.BitsFillBytesFromTheTop
  exact streamBit_toBytes

@[simp] theorem length_bitsOf (v n : Nat) : (bitsOf v n).length = n := by simp [bitsOf]

theorem getD_bitsOf (v : Nat) {n i : Nat} (hi : i < n) : (bitsOf v n).getD i false = v.testBit (n - 1 - i) := by
  simp [bitsOf, List.getD_eq_getElem?_getD, hi]

@[simp] theorem length_packBits (xs : List Nat) (b : Nat) : (packBits xs b).length = b * xs.length :=
  length_flatMap_of_const xs fun _ _ => length_bitsOf _ b

theorem bitsOf_prefix_packBits {xs : List Nat} {k x : Nat} (b : Nat) (h : xs[k]? = some x) :
    bitsOf x b <+: (packBits xs b).drop (b * k) :=
  prefix_drop_flatMap_of_const (f := fun v => bitsOf v b) (fun v _ => length_bitsOf v b) h

/-- Reading the bits of a number from the bytes they are packed in gives the number (42_packer.md R178). -/
theorem readBits_toBytes {bs : List Bool} {v s b : Nat} (h : bitsOf v b <+: bs.drop s) (hv : v < 2 ^ b) :
    readBits (toBytes bs) s b = v := by
  refine Nat.eq_of_testBit_eq fun k => ?_
  rw [readBits_eq, testBit_bitsValue]
  by_cases hk : k < b
  · have hi : b - 1 - k < b := by omega
    rw [streamBit_toBytes, getD_of_prefix_drop h (by simpa using hi), getD_bitsOf _ hi,
      show b - 1 - (b - 1 - k) = k by omega]
    simp [hk]
  · have hle : 2 ^ b ≤ 2 ^ k := Nat.pow_le_pow_right (by decide) (Nat.le_of_not_lt hk)
    simp [hk, Nat.testBit_lt_two_pow (Nat.lt_of_lt_of_le hv hle)]

/-! ## Little-endian fields -/

@[simp] theorem length_leBytes (v n : Nat) : (leBytes v n).length = n := by simp [leBytes]

theorem byteAt_of_prefix {c : List Byte} {x : Byte} {o : Nat} (h : [x] <+: c.drop o) : byteAt c o = x.toNat := by
  rw [byteAt]
  exact congrArg BitVec.toNat (getD_of_prefix_drop h (i := 0) (by simp) 0#8)

theorem sum_bytes_eq_mod (v n : Nat) :
    ((List.range n).map (fun i => (v >>> (8 * i) % 256) <<< (8 * i))).sum = v % 256 ^ n := by
  induction n with
  | zero => simp [Nat.mod_one]
  | succ n ih =>
    rw [List.range_succ, List.map_append, List.sum_append, ih, Nat.mod_pow_succ]
    simp [Nat.shiftRight_eq_div_pow, Nat.shiftLeft_eq, Nat.pow_mul, Nat.mul_comm (256 ^ n)]

/-- Reading a little-endian field gives the number written there (20_memory.md R65). -/
theorem fieldAt_of_prefix {c : List Byte} {v o n : Nat} (h : leBytes v n <+: c.drop o) (hv : v < 256 ^ n) :
    fieldAt c o n = v := by
  have hbyte : ∀ i ∈ List.range n, byteAt c (o + i) <<< (8 * i) = (v >>> (8 * i) % 256) <<< (8 * i) := by
    intro i hi
    have hi := List.mem_range.mp hi
    rw [byteAt, getD_of_prefix_drop h (by simpa using hi)]
    simp [leBytes, List.getD_eq_getElem?_getD, hi]
  rw [fieldAt, List.map_congr_left hbyte, sum_bytes_eq_mod, Nat.mod_eq_of_lt hv]

end Sys2Proof.Proofs.Memory
end

section
/-! PROOFS. What a reader finds in an IMG container (20_memory.md R72). -/

namespace Sys2Proof.Proofs.Memory

open Sys2Proof.Machine

/-- The parts of an IMG container in order (44_serializer.md R215): the four header fields, the palette, the bitmap. -/
def imgBlocks (iw ih colors bpp : Nat) (pal : List Rgb) (idx : List Nat) : List (List Byte) :=
  [leBytes iw 2, leBytes ih 2, [BitVec.ofNat 8 (colors % 256)], [BitVec.ofNat 8 bpp],
    pal.flatMap wireBytes, pack idx bpp]

theorem imgContainer_eq (iw ih colors bpp : Nat) (pal : List Rgb) (idx : List Nat) :
    imgContainer iw ih colors bpp pal idx = (imgBlocks iw ih colors bpp pal idx).flatMap id := by
  simp [imgContainer, imgBlocks]

@[simp] theorem length_wireBytes (p : Rgb) : (wireBytes p).length = 2 := length_leBytes _ _

@[simp] theorem length_palette (pal : List Rgb) : (pal.flatMap wireBytes).length = 2 * pal.length :=
  length_flatMap_of_const pal fun p _ => length_wireBytes p

section imgContainer
variable {iw ih colors bpp : Nat} {pal : List Rgb} {idx : List Nat}

/-- A part of an IMG container stands where the parts before it end. -/
theorem imgBlock_prefix {i : Nat} {x : List Byte} (h : (imgBlocks iw ih colors bpp pal idx)[i]? = some x) :
    x <+: (imgContainer iw ih colors bpp pal idx).drop
      (((imgBlocks iw ih colors bpp pal idx).take i).flatMap id).length := by
  rw [imgContainer_eq]
  exact prefix_drop_flatMap id h

theorem imgContainer_width (h : iw < 65536) : fieldAt (imgContainer iw ih colors bpp pal idx) 0 2 = iw :=
  fieldAt_of_prefix (imgBlock_prefix (i := 0) rfl) h

theorem imgContainer_bpp (h : bpp < 256) : byteAt (imgContainer iw ih colors bpp pal idx) 5 = bpp :=
  (byteAt_of_prefix (imgBlock_prefix (i := 3) rfl)).trans (Nat.mod_eq_of_lt h)

theorem imgContainer_paletteEntry {j : Nat} {p : Rgb} (h : pal[j]? = some p) :
    fieldAt (imgContainer iw ih colors bpp pal idx) (6 + 2 * j) 2 = (wireColor p).toNat :=
  have hentry : wireBytes p <+: (pal.flatMap wireBytes).drop (2 * j) :=
    prefix_drop_flatMap_of_const (fun q _ => length_wireBytes q) h
  fieldAt_of_prefix (prefix_drop_trans hentry (imgBlock_prefix (i := 4) rfl)) (wireColor p).isLt

theorem imgContainer_bitmap : (imgContainer iw ih colors bpp pal idx).drop (6 + 2 * pal.length) = pack idx bpp :=
  List.drop_left' (by simp +arith)

end imgContainer

/-- Settles O36: pixel `(x, y)` is element `y · iw + x` of the packed indices. -/
theorem readerFindsImagePixels : Obligations.ReaderFindsImagePixels := by
  unfold Obligations.ReaderFindsImagePixels
  intro iw ih k pal idx hiw _ hk hpal hidx hlt c
  have hbpp : byteAt c 5 = k := imgContainer_bpp (by omega)
  have hsize : imgPaletteSize c = 2 ^ k := by rw [imgPaletteSize, hbpp]
  have hbitmap : c.drop (imgBitmapAt c) = toBytes (packBits idx k) := by
    rw [imgBitmapAt, hsize, ← hpal]
    exact imgContainer_bitmap
  refine ⟨hsize, fun j p hp => imgContainer_paletteEntry hp, fun x y hx hy => ?_⟩
  have hin : y * iw + x < idx.length := by
    calc y * iw + x < (y + 1) * iw := by rw [Nat.succ_mul]; omega
      _ ≤ ih * iw := Nat.mul_le_mul_right iw hy
      _ = idx.length := by rw [hidx, Nat.mul_comm]
  have hget := List.getElem?_eq_getElem hin
  rw [hget, imgIndexAt, hbitmap, imgContainer_width hiw, hbpp, Nat.mul_comm _ k]
  exact congrArg some (readBits_toBytes (bitsOf_prefix_packBits k hget) (hlt _ (List.getElem_mem hin))).symm

end Sys2Proof.Proofs.Memory
end

section
/-! PROOFS. Characters of a map (44_serializer.md R222; 20_memory.md R73): the UTF-8 bytes of a scalar value are one lead byte
and bytes that continue it, and stand for that value. -/

namespace Sys2Proof.Proofs.Memory

open Sys2Proof.Machine Sys2Proof.Proofs.State

theorem utf8Continues_eq (b : Byte) : utf8Continues b = decide (b.toNat / 64 = 2) := by
  revert b
  decide

/-- `utf8` with the marker bits added to the payload bits: they do not overlap. -/
theorem utf8_eq_add {code : Nat} (h : code ≤ 0x10FFFF) :
    utf8 code =
      if code ≤ 0x7F then [BitVec.ofNat 8 code]
      else if code ≤ 0x7FF then [BitVec.ofNat 8 (0xC0 + code / 64), BitVec.ofNat 8 (0x80 + code % 64)]
      else if code ≤ 0xFFFF then
        [BitVec.ofNat 8 (0xE0 + code / 4096), BitVec.ofNat 8 (0x80 + code / 64 % 64), BitVec.ofNat 8 (0x80 + code % 64)]
      else
        [BitVec.ofNat 8 (0xF0 + code / 262144), BitVec.ofNat 8 (0x80 + code / 4096 % 64),
          BitVec.ofNat 8 (0x80 + code / 64 % 64), BitVec.ofNat 8 (0x80 + code % 64)] := by
  have marker : ∀ a k x : Nat, x < 2 ^ k → 2 ^ k * a ||| x = 2 ^ k * a + x := fun a k x hx =>
    (Nat.two_pow_add_eq_or_of_lt hx a).symm
  have hcont : ∀ x, 0x80 ||| x % 64 = 0x80 + x % 64 := fun x => marker 2 6 _ (Nat.mod_lt _ (by decide))
  simp only [utf8, Nat.shiftRight_eq_div_pow, Nat.reducePow, hcont]
  split
  · rfl
  · split
    · rw [show 0xC0 ||| code / 64 = 0xC0 + code / 64 from marker 6 5 _ (by omega)]
    · split
      · rw [show 0xE0 ||| code / 4096 = 0xE0 + code / 4096 from marker 14 4 _ (by omega)]
      · rw [show 0xF0 ||| code / 262144 = 0xF0 + code / 262144 from marker 30 3 _ (by omega)]

theorem length_utf8 (code : Nat) : (utf8 code).length = utf8len code := by
  unfold utf8 utf8len
  repeat' split
  all_goals rfl

theorem utf8_lead_tail {code : Nat} (h : code ≤ 0x10FFFF) :
    ∃ lead tail, utf8 code = lead :: tail ∧ utf8Continues lead = false ∧ ∀ x ∈ tail, utf8Continues x = true := by
  rw [utf8_eq_add h]
  repeat' split
  all_goals
    refine ⟨_, _, rfl, ?_⟩
    simp only [utf8Continues_eq, BitVec.toNat_ofNat, List.forall_mem_cons, List.not_mem_nil,
      decide_eq_true_eq, decide_eq_false_iff_not, false_imp_iff, implies_true, and_true]
    omega

theorem utf8Value_utf8 {code : Nat} (h : code ≤ 0x10FFFF) : utf8Value (utf8 code) = code := by
  rw [utf8_eq_add h]
  repeat' split
  all_goals
    simp only [utf8Value, BitVec.toNat_ofNat]
    omega

/-- The characters of a concatenation of scalar values are the scalar values. -/
theorem utf8Chars_flatMap {codes : List Nat} (h : ∀ code ∈ codes, code ≤ 0x10FFFF) :
    utf8Chars (codes.flatMap utf8) = codes.map utf8 := by
  induction codes with
  | nil => rfl
  | cons code rest ih =>
    obtain ⟨hcode, hrest⟩ := List.forall_mem_cons.mp h
    obtain ⟨lead, tail, heq, -, htail⟩ := utf8_lead_tail hcode
    have hnext : ∀ x, (rest.flatMap utf8).head? = some x → utf8Continues x = false := by
      intro x hx
      cases rest with
      | nil => cases hx
      | cons next more =>
        obtain ⟨lead', tail', heq', hlead', -⟩ := utf8_lead_tail (hrest next (by simp))
        rw [List.flatMap_cons, heq', List.cons_append, List.head?_cons, Option.some.injEq] at hx
        exact hx ▸ hlead'
    rw [List.flatMap_cons, List.map_cons, heq, utf8Chars_append lead tail _ htail hnext, ih hrest]

end Sys2Proof.Proofs.Memory
end

section
/-! PROOFS. The tables and the bitmap section of a font (42_packer.md R179; 44_serializer.md R224): where each glyph's bits
lie in the section, and that every offset fits its entry. -/

namespace Sys2Proof.Proofs.Memory

open Sys2Proof.Machine Sys2Proof.Safety Sys2Proof.Proofs.State

theorem padBits_true (n : Nat) : padBits true n = 8 * ((n + 7) / 8) := rfl

theorem le_padBits (align : Bool) (n : Nat) : n ≤ padBits align n := by
  cases align with
  | false => exact Nat.le_refl n
  | true =>
    rw [padBits_true]
    omega

theorem length_packBits_samples {fh : Nat} {g : Glyph} (b : Nat) (hg : GlyphDone fh g) :
    (packBits (g.samples.map BitVec.toNat) b).length = needBits g fh b := by
  rw [length_packBits, List.length_map, hg, needBits, Nat.mul_comm]

theorem length_glyphSlot (align : Bool) {fh : Nat} {g : Glyph} (b : Nat) (hg : GlyphDone fh g) :
    (glyphSlot align fh b g).length = padBits align (needBits g fh b) := by
  rw [glyphSlot, List.length_append, length_packBits_samples b hg, List.length_replicate]
  exact Nat.add_sub_of_le (le_padBits align _)

theorem length_glyphSlots (align : Bool) {fh : Nat} {gs : List Glyph} (b : Nat) (h : ∀ g ∈ gs, GlyphDone fh g) :
    (gs.flatMap (glyphSlot align fh b)).length = sectionBits align gs fh b := by
  rw [List.length_flatMap, sectionBits, List.map_congr_left fun g hg => length_glyphSlot align b (h g hg)]

/-- Glyph `i`'s samples lie packed in the section from bit `off(G, i)` on (42_packer.md R179). -/
theorem samples_prefix_section (align : Bool) {fh i : Nat} {gs : List Glyph} {g : Glyph} (b : Nat)
    (h : ∀ g ∈ gs, GlyphDone fh g) (hg : gs[i]? = some g) :
    packBits (g.samples.map BitVec.toNat) b <+:
      (gs.flatMap (glyphSlot align fh b)).drop (glyphOffset align gs fh b i) := by
  have hslot := prefix_drop_flatMap (glyphSlot align fh b) hg
  rw [length_glyphSlots align b fun x hx => h x (List.mem_of_mem_take hx)] at hslot
  exact (List.prefix_append _ _).trans hslot

/-! ## Offsets -/

theorem sectionBits_split (align : Bool) (gs : List Glyph) (fh b i : Nat) :
    sectionBits align gs fh b = glyphOffset align gs fh b i + sectionBits align (gs.drop i) fh b := by
  simp only [glyphOffset, sectionBits]
  rw [← List.sum_append, ← List.map_append, List.take_append_drop]

theorem glyphOffset_le_section (align : Bool) (gs : List Glyph) (fh b i : Nat) :
    glyphOffset align gs fh b i ≤ sectionBits align gs fh b := by
  rw [sectionBits_split align gs fh b i]
  exact Nat.le_add_right _ _

theorem glyphOffset_mono (align : Bool) (gs : List Glyph) (fh b : Nat) {i j : Nat} (h : i ≤ j) :
    glyphOffset align gs fh b i ≤ glyphOffset align gs fh b j := by
  have htake : (gs.take j).take i = gs.take i := by rw [List.take_take, Nat.min_eq_left h]
  rw [glyphOffset, ← htake]
  exact glyphOffset_le_section align (gs.take j) fh b i

theorem lt_two_pow_bitlen (v : Nat) : v < 2 ^ bitlen v := by
  unfold bitlen
  split
  · omega
  · exact Nat.lt_log2_self

theorem bitlen_le {v n : Nat} (h : v < 2 ^ n) : bitlen v ≤ n := by
  unfold bitlen
  split
  · exact Nat.zero_le n
  · exact (Nat.log2_lt ‹_›).mpr h

/-- Every offset fits its table entry (44_serializer.md R224). -/
theorem glyphOffset_fits (align : Bool) (gs : List Glyph) (fh b : Nat) {i : Nat} (h : i < gs.length) :
    glyphOffset align gs fh b i < 256 ^ offsetBytes align gs fh b := by
  have hbits : bitlen (maxOffset align gs fh b) ≤ 8 * offsetBytes align gs fh b := by
    rw [offsetBytes, ceilDiv]
    omega
  calc glyphOffset align gs fh b i
      ≤ maxOffset align gs fh b := glyphOffset_mono align gs fh b (by omega)
    _ < 2 ^ bitlen (maxOffset align gs fh b) := lt_two_pow_bitlen _
    _ ≤ 2 ^ (8 * offsetBytes align gs fh b) := Nat.pow_le_pow_right (by decide) hbits
    _ = 256 ^ offsetBytes align gs fh b := Nat.pow_mul 2 8 _

/-- A section below `2^32` bits needs no more than four bytes for an offset (44_serializer.md R224). -/
theorem offsetBytes_le {align : Bool} {gs : List Glyph} {fh b : Nat} (h : sectionBits align gs fh b < 2 ^ 32) :
    offsetBytes align gs fh b ≤ 4 := by
  have hbits : bitlen (maxOffset align gs fh b) ≤ 32 :=
    bitlen_le (Nat.lt_of_le_of_lt (glyphOffset_le_section align gs fh b _) h)
  rw [offsetBytes, ceilDiv]
  omega

end Sys2Proof.Proofs.Memory
end

section
/-! PROOFS. What a reader finds in a FONT container (20_memory.md R73). -/

namespace Sys2Proof.Proofs.Memory

open Sys2Proof.Machine Sys2Proof.Safety Sys2Proof.Proofs.State

/-- The parts of a FONT container in order (44_serializer.md R217, R227): the six header fields, the map, the two tables, the
bitmap section. -/
def fontBlocks (cfg : Params) (gs : List Glyph) (fh b : Nat) : List (List Byte) :=
  [cfg.fontMagic.toList, [BitVec.ofNat 8 b], leBytes fh 2, leBytes (maxWidth gs) 2,
    [BitVec.ofNat 8 (offsetBytes cfg.glyphByteAlign gs fh b)], leBytes (mapLen gs) 2,
    gs.flatMap (fun g => utf8 g.code.toNat),
    gs.flatMap (fun g => leBytes g.width.toNat (widthEntryBytes cfg.widthEntry)),
    (List.range gs.length).flatMap (fun i =>
      leBytes (glyphOffset cfg.glyphByteAlign gs fh b i) (offsetBytes cfg.glyphByteAlign gs fh b)),
    glyphSection cfg.glyphByteAlign gs fh b]

theorem fontContainer_eq (cfg : Params) (gs : List Glyph) (fh b : Nat) :
    fontContainer cfg gs fh b = (fontBlocks cfg gs fh b).flatMap id := by
  simp [fontContainer, fontBlocks]

@[simp] theorem length_charMap (gs : List Glyph) : (gs.flatMap (fun g => utf8 g.code.toNat)).length = mapLen gs := by
  simp only [List.length_flatMap, length_utf8, mapLen]

@[simp] theorem length_widths (gs : List Glyph) (n : Nat) :
    (gs.flatMap (fun g => leBytes g.width.toNat n)).length = n * gs.length :=
  length_flatMap_of_const gs fun _ _ => length_leBytes _ n

@[simp] theorem length_offsets (f : Nat → Nat) (n m : Nat) :
    ((List.range m).flatMap (fun i => leBytes (f i) n)).length = n * m := by
  rw [length_flatMap_of_const (n := n) _ fun _ _ => length_leBytes _ n, List.length_range]

section fontContainer
variable {cfg : Params} {gs : List Glyph} {fh b : Nat}

/-- A part of a FONT container stands where the parts before it end. -/
theorem fontBlock_prefix {i o : Nat} {x : List Byte} (h : (fontBlocks cfg gs fh b)[i]? = some x)
    (ho : (((fontBlocks cfg gs fh b).take i).flatMap id).length = o) : x <+: (fontContainer cfg gs fh b).drop o := by
  rw [fontContainer_eq, ← ho]
  exact prefix_drop_flatMap id h

theorem fontContainer_bpp (h : b ≤ 8) : byteAt (fontContainer cfg gs fh b) 4 = b :=
  (byteAt_of_prefix (fontBlock_prefix (i := 1) rfl (by simp [fontBlocks]))).trans (Nat.mod_eq_of_lt (by omega))

theorem fontContainer_height (h : fh < 65536) : fieldAt (fontContainer cfg gs fh b) 5 2 = fh :=
  fieldAt_of_prefix (fontBlock_prefix (i := 2) rfl (by simp [fontBlocks])) h

theorem fontContainer_offsetBytes (h : sectionBits cfg.glyphByteAlign gs fh b < 2 ^ 32) :
    byteAt (fontContainer cfg gs fh b) 9 = offsetBytes cfg.glyphByteAlign gs fh b :=
  (byteAt_of_prefix (fontBlock_prefix (i := 4) rfl (by simp [fontBlocks]))).trans
    (Nat.mod_eq_of_lt (Nat.lt_of_le_of_lt (offsetBytes_le h) (by decide)))

theorem fontContainer_mapLen (h : mapLen gs ≤ 65535) : fieldAt (fontContainer cfg gs fh b) 10 2 = mapLen gs :=
  fieldAt_of_prefix (fontBlock_prefix (i := 5) rfl (by simp [fontBlocks])) (by omega)

theorem fontContainer_map (h : mapLen gs ≤ 65535) :
    fontMapOf (fontContainer cfg gs fh b) = gs.flatMap (fun g => utf8 g.code.toNat) := by
  have hmap : gs.flatMap (fun g => utf8 g.code.toNat) <+: (fontContainer cfg gs fh b).drop 12 :=
    fontBlock_prefix (i := 6) rfl (by simp [fontBlocks])
  rw [fontMapOf, fontContainer_mapLen h, List.prefix_iff_eq_take.mp hmap, length_charMap]

theorem fontContainer_chars (hmap : mapLen gs ≤ 65535) (hs : ∀ g ∈ gs, scalarValue g.code.toNat = true) :
    fontCharsOf (fontContainer cfg gs fh b) = gs.map (fun g => g.code.toNat) := by
  have hle : ∀ code ∈ gs.map (fun g => g.code.toNat), code ≤ 0x10FFFF :=
    List.forall_mem_map.mpr fun g hg => scalarValue_le (hs g hg)
  have hsplit := utf8Chars_flatMap hle
  rw [List.flatMap_map] at hsplit
  rw [fontCharsOf, fontContainer_map hmap, hsplit, List.map_map]
  exact (List.map_congr_left fun code hcode => utf8Value_utf8 (hle code hcode)).trans (List.map_id _)

theorem fontContainer_glyphCount (hmap : mapLen gs ≤ 65535) (hs : ∀ g ∈ gs, scalarValue g.code.toNat = true) :
    fontGlyphCount (fontContainer cfg gs fh b) = gs.length := by
  rw [← fontCharsOf_length, fontContainer_chars hmap hs, List.length_map]

theorem width_fits_entry {g : Glyph} (h : cfg.widthEntry = .one → g.width.toNat ≤ 255) :
    g.width.toNat < 256 ^ widthEntryBytes cfg.widthEntry := by
  cases hw : cfg.widthEntry with
  | one => exact Nat.lt_succ_of_le (h hw)
  | two => exact g.width.isLt

theorem fontContainer_width {i : Nat} {g : Glyph} (hmap : mapLen gs ≤ 65535) (hg : gs[i]? = some g)
    (hw : cfg.widthEntry = .one → g.width.toNat ≤ 255) :
    fontWidthOf (widthEntryBytes cfg.widthEntry) (fontContainer cfg gs fh b) i = g.width.toNat := by
  have hentry := prefix_drop_flatMap_of_const
    (f := fun g : Glyph => leBytes g.width.toNat (widthEntryBytes cfg.widthEntry)) (fun _ _ => length_leBytes _ _) hg
  rw [fontWidthOf, fontContainer_mapLen hmap]
  refine fieldAt_of_prefix (prefix_drop_trans hentry (fontBlock_prefix (i := 7) rfl ?_)) (width_fits_entry hw)
  simp +arith [fontBlocks, -List.length_flatMap]

theorem fontContainer_offset {i : Nat} (hmap : mapLen gs ≤ 65535)
    (hbits : sectionBits cfg.glyphByteAlign gs fh b < 2 ^ 32) (hs : ∀ g ∈ gs, scalarValue g.code.toNat = true)
    (hi : i < gs.length) :
    fontOffsetOf (widthEntryBytes cfg.widthEntry) (fontContainer cfg gs fh b) i =
      glyphOffset cfg.glyphByteAlign gs fh b i := by
  have hentry := prefix_drop_flatMap_of_const
    (f := fun j => leBytes (glyphOffset cfg.glyphByteAlign gs fh b j) (offsetBytes cfg.glyphByteAlign gs fh b))
    (fun _ _ => length_leBytes _ _) (List.getElem?_range hi)
  rw [fontOffsetOf, fontContainer_mapLen hmap, fontContainer_glyphCount hmap hs, fontContainer_offsetBytes hbits]
  refine fieldAt_of_prefix (prefix_drop_trans hentry (fontBlock_prefix (i := 8) rfl ?_))
    (glyphOffset_fits _ gs fh b hi)
  simp +arith [fontBlocks, -List.length_flatMap]

theorem fontContainer_sectionAt (hmap : mapLen gs ≤ 65535) (hbits : sectionBits cfg.glyphByteAlign gs fh b < 2 ^ 32)
    (hs : ∀ g ∈ gs, scalarValue g.code.toNat = true) :
    fontSectionAt (widthEntryBytes cfg.widthEntry) (fontContainer cfg gs fh b) =
      12 + mapLen gs + (widthEntryBytes cfg.widthEntry + offsetBytes cfg.glyphByteAlign gs fh b) * gs.length := by
  rw [fontSectionAt, fontContainer_mapLen hmap, fontContainer_glyphCount hmap hs, fontContainer_offsetBytes hbits]

theorem fontContainer_section (hmap : mapLen gs ≤ 65535) (hbits : sectionBits cfg.glyphByteAlign gs fh b < 2 ^ 32)
    (hs : ∀ g ∈ gs, scalarValue g.code.toNat = true) :
    (fontContainer cfg gs fh b).drop (fontSectionAt (widthEntryBytes cfg.widthEntry) (fontContainer cfg gs fh b)) =
      glyphSection cfg.glyphByteAlign gs fh b := by
  rw [fontContainer_sectionAt hmap hbits hs]
  refine List.drop_left' ?_
  simp only [List.length_append, length_charMap, length_widths, length_offsets, length_leBytes, Vector.length_toList,
    List.length_singleton, Nat.add_mul]
  omega

theorem streamBit_section (hmap : mapLen gs ≤ 65535) (hbits : sectionBits cfg.glyphByteAlign gs fh b < 2 ^ 32)
    (hs : ∀ g ∈ gs, scalarValue g.code.toNat = true) (n : Nat) :
    streamBit ((fontContainer cfg gs fh b).drop
      (fontSectionAt (widthEntryBytes cfg.widthEntry) (fontContainer cfg gs fh b))) n =
        (gs.flatMap (glyphSlot cfg.glyphByteAlign fh b)).getD n false := by
  rw [fontContainer_section hmap hbits hs, glyphSection, streamBit_toBytes]

theorem fontContainer_bitmapBits {i : Nat} {g : Glyph} (hfh : fh < 65536) (hb : b ≤ 8) (hmap : mapLen gs ≤ 65535)
    (hg : gs[i]? = some g) (hw : cfg.widthEntry = .one → g.width.toNat ≤ 255) :
    fontBitmapBits (widthEntryBytes cfg.widthEntry) (fontContainer cfg gs fh b) i = needBits g fh b := by
  rw [fontBitmapBits, fontContainer_width hmap hg hw, fontContainer_height hfh, fontContainer_bpp hb, needBits]

/-- The bits a reader takes for a glyph's bitmap are the glyph's packed samples (20_memory.md R73). -/
theorem fontContainer_bitmap {i : Nat} {g : Glyph} (hfh : fh < 65536) (hb : b ≤ 8) (hmap : mapLen gs ≤ 65535)
    (hbits : sectionBits cfg.glyphByteAlign gs fh b < 2 ^ 32) (hs : ∀ g ∈ gs, scalarValue g.code.toNat = true)
    (hdone : ∀ g ∈ gs, GlyphDone fh g) (hg : gs[i]? = some g) (hw : cfg.widthEntry = .one → g.width.toNat ≤ 255) :
    fontBitmapOf (widthEntryBytes cfg.widthEntry) (fontContainer cfg gs fh b) i =
      packBits (g.samples.map BitVec.toNat) b := by
  obtain ⟨hi, -⟩ := List.getElem?_eq_some_iff.mp hg
  have hlen := length_packBits_samples b (hdone g (List.mem_of_getElem? hg))
  have hsamples := samples_prefix_section cfg.glyphByteAlign b hdone hg
  rw [fontBitmapOf, fontContainer_bitmapBits hfh hb hmap hg hw, fontContainer_offset hmap hbits hs hi, ← hlen]
  refine List.ext_getElem (by simp) fun k _ hk => ?_
  rw [List.getElem_map, List.getElem_range, streamBit_section hmap hbits hs, getD_of_prefix_drop hsamples hk,
    List.getD_eq_getElem _ _ hk]

/-- Sample `j` of a glyph is read from its `b` bits (20_memory.md R73). -/
theorem fontContainer_sample {i j : Nat} {g : Glyph} {v : Byte} (hb : b ≤ 8) (hmap : mapLen gs ≤ 65535)
    (hbits : sectionBits cfg.glyphByteAlign gs fh b < 2 ^ 32) (hs : ∀ g ∈ gs, scalarValue g.code.toNat = true)
    (hdone : ∀ g ∈ gs, GlyphDone fh g) (hg : gs[i]? = some g) (hv : g.samples[j]? = some v) (hlt : v.toNat < 2 ^ b) :
    fontSampleOf (widthEntryBytes cfg.widthEntry) (fontContainer cfg gs fh b) i j = v.toNat := by
  obtain ⟨hi, -⟩ := List.getElem?_eq_some_iff.mp hg
  have hsample : bitsOf v.toNat b <+: (packBits (g.samples.map BitVec.toNat) b).drop (b * j) :=
    bitsOf_prefix_packBits b (by rw [List.getElem?_map, hv, Option.map_some])
  rw [fontSampleOf, fontContainer_section hmap hbits hs, fontContainer_offset hmap hbits hs hi, fontContainer_bpp hb,
    Nat.mul_comm j b]
  exact readBits_toBytes (prefix_drop_trans hsample (samples_prefix_section _ b hdone hg)) hlt

/-- With ascending codes a scan of the map finds the one glyph of a character (20_memory.md R73). -/
theorem fontContainer_glyphOf {i : Nat} {g : Glyph} (hmap : mapLen gs ≤ 65535)
    (hs : ∀ g ∈ gs, scalarValue g.code.toNat = true) (hasc : gs.Pairwise (fun g g' => g.code.toNat < g'.code.toNat))
    (hg : gs[i]? = some g) : fontGlyphOf (fontContainer cfg gs fh b) g.code.toNat = some i := by
  obtain ⟨hi, rfl⟩ := List.getElem?_eq_some_iff.mp hg
  have hbefore : ∀ j (hj : j < i), (gs[j]'(hj.trans hi)).code.toNat ≠ gs[i].code.toNat := fun j hj =>
    (List.pairwise_iff_getElem.mp hasc j i (hj.trans hi) hi hj).ne
  rw [fontGlyphOf, fontContainer_chars hmap hs, List.findIdx?_eq_some_iff_getElem]
  exact ⟨by simpa using hi, by simp, fun j hj => by simpa using hbefore j hj⟩

theorem fontContainer_glyphOf_none {code : Nat} (hmap : mapLen gs ≤ 65535)
    (hs : ∀ g ∈ gs, scalarValue g.code.toNat = true) (hne : ∀ g ∈ gs, g.code.toNat ≠ code) :
    fontGlyphOf (fontContainer cfg gs fh b) code = none := by
  rw [fontGlyphOf, fontContainer_chars hmap hs, List.findIdx?_eq_none_iff, List.forall_mem_map]
  exact fun g hg => by simpa using hne g hg

end fontContainer

/-- The first bit of a bitmap is the bit at the place where the bitmap starts (20_memory.md R73). -/
theorem fontBitmapOf_zero {wb i : Nat} {c : List Byte} {x : Bool} (h : (fontBitmapOf wb c i)[0]? = some x) :
    x = (c.getD (fontBitmapStart wb c i).1 0#8).getLsbD (fontBitmapStart wb c i).2 := by
  obtain ⟨hlen, hx⟩ := List.getElem?_eq_some_iff.mp h
  have hbit : x = streamBit (c.drop (fontSectionAt wb c)) (fontOffsetOf wb c i) := by
    simpa [fontBitmapOf] using hx.symm
  rw [hbit, streamBit, fontBitmapStart, List.getD_eq_getElem?_getD, List.getElem?_drop, ← List.getD_eq_getElem?_getD]

/-- Settles O49: each table and the section stand at their offsets, and each offset fits its entry. -/
theorem readerFindsGlyphSamples : Obligations.ReaderFindsGlyphSamples := by
  unfold Obligations.ReaderFindsGlyphSamples
  intro cfg gs fh b _ hb hmap hbits hgs hwidth c wb need
  have hs : ∀ g ∈ gs, scalarValue g.code.toNat = true := fun g hg => have ⟨h, _, _⟩ := hgs g hg; h
  have hdone : ∀ g ∈ gs, GlyphDone fh g := fun g hg => have ⟨_, h, _⟩ := hgs g hg; h
  refine ⟨fontContainer_glyphCount hmap hs, fun i g hg => ?_⟩
  obtain ⟨hi, -⟩ := List.getElem?_eq_some_iff.mp hg
  have hmem : g ∈ gs := List.mem_of_getElem? hg
  have hoff : fontOffsetOf wb c i = glyphOffset cfg.glyphByteAlign gs fh b i := fontContainer_offset hmap hbits hs hi
  refine ⟨fontContainer_width hmap hg fun h => hwidth h g hmem, hoff, fun halign => ?_, fun halign => ?_,
    fun j v hv => ?_⟩
  · rw [hoff, halign]
    rfl
  · rw [hoff, halign]
    rfl
  · obtain ⟨-, -, hlt⟩ := hgs g hmem
    exact fontContainer_sample hb hmap hbits hs hdone hg hv (hlt v (List.mem_of_getElem? hv))

/-- Settles O50: the map splits into the glyphs' codes, and a glyph's slot begins with its packed samples. -/
theorem readerFindsGlyphOfCharacter : Obligations.ReaderFindsGlyphOfCharacter := by
  unfold Obligations.ReaderFindsGlyphOfCharacter
  intro cfg gs fh b hfh hb hmap hbits hgs hwidth c wb off
  have hs : ∀ g ∈ gs, scalarValue g.code.toNat = true := fun g hg => have ⟨h, _⟩ := hgs g hg; h
  have hdone : ∀ g ∈ gs, GlyphDone fh g := fun g hg => have ⟨_, h⟩ := hgs g hg; h
  refine ⟨fontContainer_chars hmap hs, fun hasc i g => fontContainer_glyphOf hmap hs hasc,
    fun code => fontContainer_glyphOf_none hmap hs, fun i g hg => ?_⟩
  obtain ⟨hi, -⟩ := List.getElem?_eq_some_iff.mp hg
  have hw : cfg.widthEntry = .one → g.width.toNat ≤ 255 := fun h => hwidth h g (List.mem_of_getElem? hg)
  refine ⟨fontContainer_bitmapBits hfh hb hmap hg hw, ?_, fontContainer_bitmap hfh hb hmap hbits hs hdone hg hw,
    fun x => fontBitmapOf_zero⟩
  rw [fontBitmapStart, fontContainer_sectionAt hmap hbits hs, fontContainer_offset hmap hbits hs hi]

end Sys2Proof.Proofs.Memory
end

section
/-! PROOFS. The encoding (30_encoding.md R90 to R97). One lemma says which words match a row of the opcode table and one what
each answer of `decode` means; that decoding and encoding invert each other, which words are malformed, and what the
assembler's words decode to are then short uses of them. -/

namespace Sys2Proof.Proofs.Encoding

open Sys2Proof.Machine Sys2Proof.Safety

/-! ## The fields of a word -/

theorem wordOf_inj {b c : Byte} {x y : BitVec 24} : wordOf b x = wordOf c y ↔ b = c ∧ x = y := by
  refine ⟨fun h => ⟨?_, ?_⟩, fun ⟨hb, hx⟩ => by rw [hb, hx]⟩
  · simpa using congrArg opcodeByte h
  · simpa using congrArg operand24 h

/-- An operand is bits 23:16 over `imm16` (30_encoding.md R91). -/
theorem operandR_append_operand16 (w : Word) : operandR w ++ operand16 w = operand24 w :=
  BitVec.extractLsb'_append_extractLsb'_eq_extractLsb' rfl

/-- An operand is a colour's three components, red first (30_encoding.md R93). -/
theorem colorBits_components (w : Word) : colorBits (operandR w) (operandG w) (operandB w) = operand24 w := by
  have hgb : operandG w ++ operandB w = operand16 w := BitVec.extractLsb'_append_extractLsb'_eq_extractLsb' rfl
  rw [colorBits, hgb, operandR_append_operand16]

theorem u16Bits_operand16 {w : Word} (h : operandR w = 0#8) : u16Bits (operand16 w) = operand24 w := by
  rw [u16Bits, ← operandR_append_operand16, h]

theorem operandR_eq_zero {w : Word} (h : (operand24 w).toNat ≤ 65535) : operandR w = 0#8 := by
  apply BitVec.eq_of_toNat_eq
  rw [operand24, extract_toNat] at h
  rw [operandR, extract_toNat, BitVec.toNat_ofNat]
  omega

/-! ## The rows of the opcode table -/

/-- The bits that a format reserves are 0 in the word (30_encoding.md R91). -/
def ReservedZero (w : Word) : OpFormat → Prop
  | .fNone => operand24 w = 0#24
  | .fU16 => operandR w = 0#8
  | .fU24 => True

/-- A word matches a row of the opcode table exactly when it has the row's opcode byte and no reserved bit set. -/
theorem rowMatch_iff (op : Opcode) (w : Word) :
    w &&& op.format.mask = op.matchWord ↔ opcodeByte w = op.code ∧ ReservedZero w op.format := by
  rw [Opcode.matchWord]
  cases op.format with
  | fNone => rw [mask_none, ← wordOf_fields w, wordOf_inj]; simp [ReservedZero]
  | fU16 =>
    have hw : w = wordOf (opcodeByte w) (operandR w ++ operand16 w) := by
      rw [operandR_append_operand16, wordOf_fields]
    have hr : operandR w ++ 0#16 = 0#24 ↔ operandR w = 0#8 := BitVec.append_left_inj (s₂ := 0#8) 0#16
    rw [ReservedZero, ← hr, ← wordOf_inj, ← wordOf_mask_u16 _ _ (operand16 w), ← hw]
  | fU24 =>
    have hmask : w &&& OpFormat.fU24.mask = wordOf (opcodeByte w) 0#24 := by
      rw [← wordOf_mask_u24 _ (operand24 w), wordOf_fields]
    rw [hmask, wordOf_inj]
    simp [ReservedZero]

/-- The word of every command matches its opcode's row (30_encoding.md R91). -/
theorem rowMatch_encode (i : Instr) : encode i &&& i.opcode.format.mask = i.opcode.matchWord := by
  cases i with
  | nop => exact Laws.RowMatch.nop
  | setW v => exact Laws.RowMatch.setW v
  | setH v => exact Laws.RowMatch.setH v
  | imgBegin c => exact Laws.RowMatch.imgBegin c
  | pixel r g b => exact Laws.RowMatch.pixel r g b
  | imgEnd => exact Laws.RowMatch.imgEnd
  | fontBegin n => exact Laws.RowMatch.fontBegin n
  | glyphBegin c => exact Laws.RowMatch.glyphBegin c
  | sample v => exact Laws.RowMatch.sample v
  | fontEnd => exact Laws.RowMatch.fontEnd
  | xcode r g b => exact Laws.RowMatch.xcode r g b
  | query => exact Laws.RowMatch.query
  | abort => exact Laws.RowMatch.abort

/-! ## The command of a row -/

@[simp] theorem opcode_instrOf (op : Opcode) (w : Word) : (instrOf op w).opcode = op := by cases op <;> rfl

/-- A command's fields are read back from its word: each extractor undoes what the encoder wrote (30_encoding.md R93). -/
theorem instrOf_encode (i : Instr) : instrOf i.opcode (encode i) = i := by
  cases i with
  | nop | imgEnd | fontEnd | query | abort => rfl
  | setW v | setH v => exact congrArg _ (operand16_wordOf _ v)
  | imgBegin x | fontBegin x | glyphBegin x | sample x => exact congrArg _ (operand24_wordOf _ x)
  | pixel r g b | xcode r g b => simp [instrOf, Instr.opcode, encode, Instr.operandBits]

/-- With no reserved bit set, the fields of a row's command hold the whole operand. -/
theorem operandBits_instrOf {op : Opcode} {w : Word} (h : ReservedZero w op.format) :
    (instrOf op w).operandBits = operand24 w := by
  cases op with
  | nop | imgEnd | fontEnd | query | abort => exact Eq.symm h
  | setW | setH => exact u16Bits_operand16 h
  | pixel | xcode => exact colorBits_components w
  | imgBegin | fontBegin | glyphBegin | sample => rfl

/-! ## The answers of `decode` -/

theorem opcodeOf_eq_some_iff {b : Byte} {op : Opcode} : opcodeOf b = some op ↔ op.code = b :=
  ⟨opcodeOf_some, fun h => by rw [← h, opcodeOf_code]⟩

/-- The answer for a word with an assigned opcode byte. -/
theorem decode_of_code {w : Word} {op : Opcode} (h : op.code = opcodeByte w) :
    decode w = if w &&& op.format.mask = op.matchWord then .ok (instrOf op w) else .error .reservedBits := by
  rw [decode, opcodeOf_eq_some_iff.mpr h]

theorem decode_of_reservedZero {w : Word} {op : Opcode} (hb : op.code = opcodeByte w)
    (hr : ReservedZero w op.format) : decode w = .ok (instrOf op w) := by
  rw [decode_of_code hb, if_pos ((rowMatch_iff op w).mpr ⟨hb.symm, hr⟩)]

theorem decode_of_not_reservedZero {w : Word} {op : Opcode} (hb : op.code = opcodeByte w)
    (hr : ¬ ReservedZero w op.format) : decode w = .error .reservedBits := by
  rw [decode_of_code hb, if_neg fun h => hr ((rowMatch_iff op w).mp h).2]

theorem decode_of_no_code {w : Word} (h : ∀ op : Opcode, op.code ≠ opcodeByte w) :
    decode w = .error .unassignedOpcode := by
  have hnone : opcodeOf (opcodeByte w) = none :=
    Option.eq_none_iff_forall_ne_some.mpr fun op hop => h op (opcodeOf_some hop)
  rw [decode, hnone]

/-- Everything that decoding a word can do, and when (30_encoding.md R94, 40_dispatch.md R122). -/
theorem decode_cases (w : Word) :
    ((∀ op : Opcode, op.code ≠ opcodeByte w) ∧ decode w = .error .unassignedOpcode) ∨
    (∃ op : Opcode, op.code = opcodeByte w ∧ ¬ ReservedZero w op.format ∧ decode w = .error .reservedBits) ∨
    (∃ op : Opcode, op.code = opcodeByte w ∧ ReservedZero w op.format ∧ decode w = .ok (instrOf op w)) := by
  by_cases hop : ∃ op : Opcode, op.code = opcodeByte w
  · obtain ⟨op, hb⟩ := hop
    by_cases hr : ReservedZero w op.format
    · exact .inr (.inr ⟨op, hb, hr, decode_of_reservedZero hb hr⟩)
    · exact .inr (.inl ⟨op, hb, hr, decode_of_not_reservedZero hb hr⟩)
  · have hne : ∀ op : Opcode, op.code ≠ opcodeByte w := fun op hb => hop ⟨op, hb⟩
    exact .inl ⟨hne, decode_of_no_code hne⟩

theorem decode_eq_ok_iff {w : Word} {i : Instr} :
    decode w = .ok i ↔ ∃ op : Opcode, op.code = opcodeByte w ∧ ReservedZero w op.format ∧ instrOf op w = i := by
  constructor
  · intro h
    rcases decode_cases w with ⟨-, hd⟩ | ⟨_, -, -, hd⟩ | ⟨op, hb, hr, hd⟩ <;> rw [h] at hd
    · cases hd
    · cases hd
    · exact ⟨op, hb, hr, (Except.ok.inj hd).symm⟩
  · rintro ⟨op, hb, hr, rfl⟩
    exact decode_of_reservedZero hb hr

theorem decode_eq_unassigned_iff {w : Word} :
    decode w = .error .unassignedOpcode ↔ ∀ op : Opcode, op.code ≠ opcodeByte w := by
  refine ⟨fun h => ?_, decode_of_no_code⟩
  rcases decode_cases w with ⟨hne, -⟩ | ⟨_, -, -, hd⟩ | ⟨_, -, -, hd⟩
  · exact hne
  · rw [h] at hd; cases hd
  · rw [h] at hd; cases hd

theorem decode_eq_reservedBits_iff {w : Word} :
    decode w = .error .reservedBits ↔ ∃ op : Opcode, op.code = opcodeByte w ∧ ¬ ReservedZero w op.format := by
  refine ⟨fun h => ?_, fun ⟨_, hb, hr⟩ => decode_of_not_reservedZero hb hr⟩
  rcases decode_cases w with ⟨-, hd⟩ | ⟨op, hb, hr, -⟩ | ⟨_, -, -, hd⟩
  · rw [h] at hd; cases hd
  · exact ⟨op, hb, hr⟩
  · rw [h] at hd; cases hd

/-! ## Decoding and encoding -/

/-- Settles O2: the word's opcode byte finds the command's row, the word matches it, and each field is read back. -/
theorem decodeOfEncode : Obligations.DecodeOfEncode := by
  unfold Obligations.DecodeOfEncode
  intro i
  have hb : i.opcode.code = opcodeByte (encode i) := (opcodeByte_wordOf _ _).symm
  rw [decode_of_code hb, if_pos (rowMatch_encode i), instrOf_encode]

/-- Settles O3: the command has the word's opcode byte and, no reserved bit being set, its whole operand. -/
theorem encodeOfDecode : Obligations.EncodeOfDecode := by
  unfold Obligations.EncodeOfDecode
  intro w i h
  obtain ⟨op, hb, hr, rfl⟩ := decode_eq_ok_iff.mp h
  rw [encode, opcode_instrOf, hb, operandBits_instrOf hr, wordOf_fields]

/-- Settles O1. -/
theorem exampleWordsDecode : Obligations.ExampleWordsDecode := by
  unfold Obligations.ExampleWordsDecode
  decide

/-! ## Malformed words -/

/-- The opcode bytes of the commands of a format, in the order of 30_encoding.md R92. -/
def codesOf (fmt : OpFormat) : List Byte := (allOpcodes.filter (fun op => op.format == fmt)).map Opcode.code

theorem mem_allOpcodes (op : Opcode) : op ∈ allOpcodes := by cases op <;> decide

theorem mem_codes_iff {b : Byte} : b ∈ allOpcodes.map Opcode.code ↔ ∃ op : Opcode, op.code = b := by
  simp [mem_allOpcodes]

theorem mem_codesOf_iff {b : Byte} {fmt : OpFormat} :
    b ∈ codesOf fmt ↔ ∃ op : Opcode, op.code = b ∧ op.format = fmt := by
  simp [codesOf, mem_allOpcodes, and_comm]

/-- The words of case (a): the opcode byte is none of the table's (30_encoding.md R94). -/
theorem unassigned_iff_not_mem {w : Word} :
    decode w = .error .unassignedOpcode ↔ opcodeByte w ∉ allOpcodes.map Opcode.code := by
  rw [decode_eq_unassigned_iff, mem_codes_iff, not_exists]

/-- The words of case (b), by the formats that reserve bits (30_encoding.md R94). -/
theorem reservedBits_iff_mem {w : Word} :
    decode w = .error .reservedBits ↔
      (opcodeByte w ∈ codesOf .fNone ∧ operand24 w ≠ 0#24) ∨ (opcodeByte w ∈ codesOf .fU16 ∧ operandR w ≠ 0#8) := by
  rw [decode_eq_reservedBits_iff, mem_codesOf_iff, mem_codesOf_iff]
  constructor
  · rintro ⟨op, hb, hr⟩
    cases hf : op.format with
    | fNone => exact .inl ⟨⟨op, hb, hf⟩, by rwa [hf] at hr⟩
    | fU16 => exact .inr ⟨⟨op, hb, hf⟩, by rwa [hf] at hr⟩
    | fU24 => rw [hf] at hr; exact absurd trivial hr
  · rintro (⟨⟨op, hb, hf⟩, hr⟩ | ⟨⟨op, hb, hf⟩, hr⟩) <;> exact ⟨op, hb, by rwa [hf]⟩

theorem raiseError_eq_errorEntry (e : ErrorKind) (opc : Byte) (s : State) :
    raiseError e opc s = errorEntry (errorCode e) opc s := rfl

/-- A malformed word runs no command, in any state. -/
theorem stepWord_of_malformed {w : Word} {m : Malformed} (hd : decode w = .error m) (s : State) :
    stepWord w s = .next (rejectWord m w s) := by
  rw [stepWord, hd]

theorem stepWord_malformed_entersError {w : Word} {m : Malformed} {s : State} (hd : decode w = .error m)
    (hm : s.mode ≠ .error) : stepWord w s = .next (errorEntry (errorCode (malformedError m)) (opcodeByte w) s) := by
  rcases rejectWord_cases m w s with ⟨he, -⟩ | ⟨-, hr⟩
  · exact absurd he hm
  · rw [stepWord_of_malformed hd, hr, raiseError_eq_errorEntry]

theorem stepWord_malformed_discarded {w : Word} {m : Malformed} {s : State} (hd : decode w = .error m)
    (hm : s.mode = .error) : stepWord w s = .next s := by
  rcases rejectWord_cases m w s with ⟨-, hr⟩ | ⟨he, -⟩
  · rw [stepWord_of_malformed hd, hr]
  · exact absurd hm he

/-- Settles O4. -/
theorem malformedWordsAreRejected : Obligations.MalformedWordsAreRejected := by
  unfold Obligations.MalformedWordsAreRejected
  exact fun w => ⟨unassigned_iff_not_mem, reservedBits_iff_mem, fun s =>
    ⟨fun hm hd => stepWord_malformed_entersError hd hm, fun hm hd => stepWord_malformed_entersError hd hm,
      fun hm ⟨_, hd⟩ => stepWord_malformed_discarded hd hm⟩⟩

/-! ## The assembler -/

theorem mem_fNone_iff {op : Opcode} : op ∈ [.nop, .imgEnd, .fontEnd, .query, .abort] ↔ op.format = .fNone := by
  cases op <;> decide

theorem mem_fU16_iff {op : Opcode} : op ∈ [.setW, .setH] ↔ op.format = .fU16 := by
  cases op <;> decide

theorem mem_fU24_iff {op : Opcode} :
    op ∈ [.imgBegin, .pixel, .fontBegin, .glyphBegin, .sample, .xcode] ↔ op.format = .fU24 := by
  cases op <;> decide

theorem format_of_mem_color {op : Opcode} (h : op ∈ [.pixel, .xcode]) : op.format = .fU24 := by
  rcases List.mem_pair.mp h with rfl | rfl <;> rfl

/-- The operands a mnemonic takes, by the forms and bounds of 30_encoding.md R96. -/
theorem operandFits_iff (op : Opcode) (x : AsmOperand) :
    operandFits op op.format x = true ↔
      (op ∈ [.nop, .imgEnd, .fontEnd, .query, .abort] ∧ x = .none) ∨
      (op ∈ [.setW, .setH] ∧ ∃ n, n ≤ 65535 ∧ x = .num n) ∨
      (op ∈ [.imgBegin, .pixel, .fontBegin, .glyphBegin, .sample, .xcode] ∧ ∃ n, n ≤ 16777215 ∧ x = .num n) ∨
      (op ∈ [.pixel, .xcode] ∧ ∃ r g b, r ≤ 255 ∧ g ≤ 255 ∧ b ≤ 255 ∧ x = .rgb r g b) := by
  rw [mem_fNone_iff, mem_fU16_iff, mem_fU24_iff]
  cases x with
  | none => cases op.format <;> simp [operandFits]
  | num n => cases op.format <;> simp [operandFits]
  | rgb r g b =>
    cases hf : op.format with
    | fNone | fU16 =>
      have hcolor : op ∉ [.pixel, .xcode] := fun h => by rw [format_of_mem_color h] at hf; cases hf
      simp [operandFits, hcolor]
    | fU24 => simp [operandFits, and_assoc]

/-- The number an operand is written as, a colour red first (30_encoding.md R93, R96). -/
def operandValue : AsmOperand → Nat
  | .none => 0
  | .num n => n
  | .rgb r g b => r * 65536 + g * 256 + b

theorem bits_toNat_of_fits {op : Opcode} {x : AsmOperand} (h : operandFits op op.format x = true) :
    x.bits.toNat = operandValue x := by
  rcases (operandFits_iff op x).mp h with
    ⟨-, rfl⟩ | ⟨-, n, hn, rfl⟩ | ⟨-, n, hn, rfl⟩ | ⟨-, r, g, b, hr, hg, hb, rfl⟩
  · rfl
  · exact (BitVec.toNat_ofNat n 24).trans (Nat.mod_eq_of_lt (by omega))
  · exact (BitVec.toNat_ofNat n 24).trans (Nat.mod_eq_of_lt (by omega))
  · rw [AsmOperand.bits, colorBits_toNat, BitVec.toNat_ofNat, BitVec.toNat_ofNat, BitVec.toNat_ofNat, operandValue]
    omega

/-- An operand that fits sets no bit that its mnemonic's format reserves. -/
theorem reservedZero_of_fits {op : Opcode} {x : AsmOperand} (h : operandFits op op.format x = true) :
    ReservedZero (wordOf op.code x.bits) op.format := by
  have hbits := bits_toNat_of_fits h
  rcases (operandFits_iff op x).mp h with ⟨hop, rfl⟩ | ⟨hop, n, hn, rfl⟩ | ⟨hop, -⟩ | ⟨hop, -⟩
  · rw [mem_fNone_iff.mp hop]
    exact operand24_wordOf _ _
  · rw [mem_fU16_iff.mp hop]
    exact operandR_eq_zero (by rw [operand24_wordOf, hbits]; exact hn)
  · rw [mem_fU24_iff.mp hop]
    trivial
  · rw [format_of_mem_color hop]
    trivial

theorem assemble_of_fits {op : Opcode} {x : AsmOperand} (h : operandFits op op.format x = true) :
    assemble (.cmd op x) = some (wordOf op.code x.bits) := if_pos h

theorem assemble_of_not_fits {op : Opcode} {x : AsmOperand} (h : ¬ operandFits op op.format x = true) :
    assemble (.cmd op x) = none := if_neg h

/-- The word of a line whose operand fits decodes to a command of the line's mnemonic with the operand as written. -/
theorem assembled_line_decodes {op : Opcode} {x : AsmOperand} (h : operandFits op op.format x = true) :
    ∃ w i, assemble (.cmd op x) = some w ∧ decode w = .ok i ∧ i.opcode = op ∧ i.operandBits.toNat = operandValue x := by
  have hzero := reservedZero_of_fits h
  refine ⟨wordOf op.code x.bits, instrOf op (wordOf op.code x.bits), assemble_of_fits h,
    decode_of_reservedZero (opcodeByte_wordOf _ _).symm hzero, opcode_instrOf _ _, ?_⟩
  rw [operandBits_instrOf hzero, operand24_wordOf, bits_toNat_of_fits h]

theorem assemble_word (w : Word) : assemble (.word w.toNat) = some w := by
  have hfits : rawWordFits w.toNat = true := decide_eq_true w.isLt
  rw [assemble, AsmLine.wellFormed, if_pos hfits, BitVec.ofNat_toNat, BitVec.setWidth_eq]

theorem assemble_word_of_le {n : Nat} (h : 2 ^ 32 ≤ n) : assemble (.word n) = none :=
  if_neg fun hfits => absurd (of_decide_eq_true hfits) (by omega)

/-- PIXELS expands to one PIXEL line per operand, in order (30_encoding.md R97). -/
theorem expandPseudo_pixels (ps : List AsmOperand) :
    (expandPseudo (.pixels ps)).length = ps.length ∧
      ∀ (k : Nat) p, ps[k]? = some p → (expandPseudo (.pixels ps))[k]? = some (.cmd .pixel p) :=
  ⟨List.length_map _, fun k p h => by rw [expandPseudo, List.getElem?_map, h, Option.map_some]⟩

/-- SAMPLES expands to one SAMPLE line per operand, in order (30_encoding.md R97). -/
theorem expandPseudo_samples (vs : List Nat) :
    (expandPseudo (.samples vs)).length = vs.length ∧
      ∀ (k : Nat) v, vs[k]? = some v → (expandPseudo (.samples vs))[k]? = some (.cmd .sample (.num v)) :=
  ⟨List.length_map _, fun k v h => by rw [expandPseudo, List.getElem?_map, h, Option.map_some]⟩

/-- Settles O5. -/
theorem assembledLinesDecode : Obligations.AssembledLinesDecode := by
  unfold Obligations.AssembledLinesDecode
  refine ⟨fun op x => ⟨fun h => ?_, fun h => ?_⟩, assemble_word, fun n => assemble_word_of_le, fun _ _ => rfl,
    fun _ _ _ => rfl, expandPseudo_pixels, fun _ _ => rfl, fun _ _ => rfl, expandPseudo_samples⟩
  · exact assembled_line_decodes ((operandFits_iff op x).mpr h)
  · exact assemble_of_not_fits fun hfits => h ((operandFits_iff op x).mp hfits)

end Sys2Proof.Proofs.Encoding
end

section
/-! PROOFS. Dispatch (40_dispatch.md R120 to R124): every step answers, ERROR lets three words through, a command outside
its place in the legality table raises the table's error, and a command that fails has no effect but error entry. -/

namespace Sys2Proof.Proofs.Dispatch

open Sys2Proof.Machine Sys2Proof.Safety Sys2Proof.Proofs.State Sys2Proof.Proofs.Encoding

/-! ## Every step answers -/

theorem stepWord_total (w : Word) (s : State) : ∃ t, stepWord w s = .next t := by
  rcases stepWord_cases w s with ⟨i, -, h⟩ | ⟨m, -, h⟩
  · exact ⟨_, h.trans (exec_eq i s)⟩
  · exact ⟨_, h⟩

theorem step_total (s : State) : ∃ t, step s = .next t := by
  rcases step_cases s with ⟨-, h⟩ | ⟨w, _, -, -, h⟩ | ⟨_, -, h⟩ | ⟨_, -, h⟩ | ⟨_, -, h⟩ | ⟨_, -, h⟩
  case inr.inl => exact h ▸ stepWord_total w _
  all_goals exact ⟨_, h⟩

/-- Settles O8. -/
theorem stepIsTotal : Obligations.StepIsTotal := by
  unfold Obligations.StepIsTotal
  exact ⟨stepWord_total, step_total⟩

/-! ## The ERROR filter (40_dispatch.md R121) -/

/-- The word of a command runs it. -/
theorem stepWord_encode (i : Instr) (s : State) : stepWord (encode i) s = exec i s := by
  rw [stepWord, decodeOfEncode i]

/-- The three commands with an effect in ERROR leave there what their rules leave. -/
theorem exec_performed_in_error {i : Instr} {s t : State} (hm : s.mode = .error)
    (hi : i = .nop ∨ i = .query ∨ i = .abort) (hb : commandRule i s = .ok t) : exec i s = .next t := by
  refine exec_ok ?_ hb
  rw [hm]
  rcases hi with rfl | rfl | rfl <;> rfl

theorem exec_discarded_in_error {i : Instr} {s : State} (hm : s.mode = .error)
    (hnop : i ≠ .nop) (hquery : i ≠ .query) (habort : i ≠ .abort) : exec i s = .next s := by
  refine exec_discard ?_
  rw [hm]
  cases i with
  | nop => exact absurd rfl hnop
  | query => exact absurd rfl hquery
  | abort => exact absurd rfl habort
  | _ => rfl

/-- A word of none of the three commands is discarded in ERROR, whether it decodes or not. -/
theorem stepWord_discarded_in_error {w : Word} {s : State} (hm : s.mode = .error) (hnop : w ≠ encode .nop)
    (hquery : w ≠ encode .query) (habort : w ≠ encode .abort) : stepWord w s = .next s := by
  cases hd : decode w with
  | error m => exact stepWord_malformed_discarded hd hm
  | ok i =>
    obtain rfl := encodeOfDecode w i hd
    rw [stepWord_encode]
    exact exec_discarded_in_error hm (fun h => hnop (congrArg encode h)) (fun h => hquery (congrArg encode h))
      (fun h => habort (congrArg encode h))

theorem queryRule_in_error {s : State} (hm : s.mode = .error) :
    queryRule s = .ok { s with rsp := s.rsp ++ [0xF0#8 ++ (s.errCode ++ (s.errOp ++ (0#5 ++ 4#3)))] } := by
  have hpayload : statusPayload s = s.errOp ++ (0#5 ++ 4#3) := by simp only [statusPayload, hm, modeCode]
  rw [queryRule, hpayload]
  rfl

/-- Settles O9: the three words are those of NOP, QUERY and ABORT, whose rules ERROR lets through. -/
theorem errorStateFiltersWords : Obligations.ErrorStateFiltersWords := by
  unfold Obligations.ErrorStateFiltersWords
  intro s w hm
  refine ⟨?nop, ?query, ?abort, stepWord_discarded_in_error hm⟩
  case nop =>
    rintro rfl
    exact (stepWord_encode .nop s).trans (exec_performed_in_error hm (.inl rfl) rfl)
  case query =>
    rintro rfl
    exact (stepWord_encode .query s).trans (exec_performed_in_error hm (.inr (.inl rfl)) (queryRule_in_error hm))
  case abort =>
    rintro rfl
    exact (stepWord_encode .abort s).trans (exec_performed_in_error hm (.inr (.inr rfl)) rfl)

/-! ## The legality table (40_dispatch.md R123) -/

/-- A command at an entry of the table that names an error only enters ERROR with it (60_exceptions.md R283). -/
theorem exec_raises {i : Instr} {s : State} {m : Mode} (e : ErrorKind) (hm : s.mode = m)
    (hl : legality i.opcode m = .illegal e) : exec i s = .next (errorEntry (errorCode e) i.opcode.code s) := by
  rw [← raiseError_eq_errorEntry]
  exact exec_illegal (hm ▸ hl)

/-- Settles O19: each clause is a set of entries of the table with one error. -/
theorem illegalCommandsRaise : Obligations.IllegalCommandsRaise := by
  unfold Obligations.IllegalCommandsRaise
  intro s
  refine ⟨?begins, ?image, ?font, ?sample, ?openGlyph⟩
  case begins =>
    rintro (hm | hm | hm) <;>
      exact ⟨fun _ => exec_raises .sequence hm rfl, fun _ => exec_raises .sequence hm rfl⟩
  case image =>
    rintro (hm | hm | hm) <;>
      exact ⟨fun _ _ _ => exec_raises .sequence hm rfl, exec_raises .sequence hm rfl⟩
  case font =>
    rintro (hm | hm) <;>
      exact ⟨fun _ => exec_raises .sequence hm rfl, exec_raises .sequence hm rfl⟩
  case sample =>
    rintro (hm | hm | hm) <;>
      exact fun _ => exec_raises .sequence hm rfl
  case openGlyph =>
    exact fun hm => ⟨fun _ => exec_raises .sampleCount hm rfl, exec_raises .sampleCount hm rfl⟩

/-! ## Failure (40_dispatch.md R124) -/

/-- A rule that completes outside ERROR does not enter it. -/
theorem commandEffect_mode_ne_error {i : Instr} {s : State} (hl : legality i.opcode s.mode = .perform)
    (hm : s.mode ≠ .error) : (commandEffect i s).mode ≠ .error := by
  by_cases hi : i = .abort
  · subst hi
    simp [commandEffect]
  · exact fun h => hm ((commandEffect_mode_eq_error hi hl).mp h)

/-- Settles O20: of the things a command can do outside ERROR, error entry alone leads there. -/
theorem failureIsOnlyErrorEntry : Obligations.FailureIsOnlyErrorEntry := by
  unfold Obligations.FailureIsOnlyErrorEntry
  intro i s t h hs ht
  rcases exec_outcomes h with rfl | ⟨-, e, he⟩ | ⟨hl, hb⟩
  · exact absurd ht hs
  · exact ⟨e, he.trans (raiseError_eq_errorEntry e _ s)⟩
  · obtain rfl := commandRule_ok hb
    exact absurd ht (commandEffect_mode_ne_error hl hs)

end Sys2Proof.Proofs.Dispatch
end

section
/-! PROOFS. The quantization functions (41_quantizer.md R140 to R146): the valid colour counts, the laws of both functions,
and what REF_QUANT picks. -/

namespace Sys2Proof.Proofs.Quantizer

open Sys2Proof.Machine Sys2Proof.Proofs.State

/-! ## Colour counts (R140, R142) -/

@[simp] theorem bppOf_two_pow (k : Nat) : bppOf (2 ^ k) = k := Nat.log2_two_pow

theorem validColors_two_pow {k : Nat} (hk : k ≤ 8) : validColors (2 ^ k) = true := by
  have hpos : 1 ≤ 2 ^ k := Nat.one_le_two_pow
  have hle : 2 ^ k ≤ 256 := Nat.pow_le_pow_right (n := 2) (by decide) hk
  have hand : 2 ^ k &&& (2 ^ k - 1) = 0 := by rw [Nat.and_two_pow_sub_one_eq_mod, Nat.mod_self]
  simp [validColors, hpos, hle, hand]

theorem validColors_iff_two_pow {c : Nat} : validColors c = true ↔ ∃ k ≤ 8, c = 2 ^ k :=
  ⟨fun h => ⟨bppOf c, bppOf_le h, validColors_eq_two_pow h⟩, by rintro ⟨k, hk, rfl⟩; exact validColors_two_pow hk⟩

theorem mem_counts_iff_two_pow {c : Nat} : c ∈ [1, 2, 4, 8, 16, 32, 64, 128, 256] ↔ ∃ k ≤ 8, c = 2 ^ k := by
  have hcounts : [1, 2, 4, 8, 16, 32, 64, 128, 256] = (List.range 9).map (2 ^ ·) := rfl
  simp only [hcounts, List.mem_map, List.mem_range, Nat.lt_succ_iff, eq_comm]

theorem validColors_iff_mem (c : Nat) : validColors c = true ↔ c ∈ [1, 2, 4, 8, 16, 32, 64, 128, 256] :=
  validColors_iff_two_pow.trans mem_counts_iff_two_pow.symm

theorem validColors_pos {c : Nat} (h : validColors c = true) : 0 < c := by
  rw [validColors_eq_two_pow h]
  exact Nat.two_pow_pos _

/-- Settles O28. -/
theorem validColorCounts : Obligations.ValidColorCounts := by
  unfold Obligations.ValidColorCounts
  exact ⟨validColors_iff_mem, fun k _ => bppOf_two_pow k⟩

/-! ## The palette of REF_QUANT -/

theorem distinctColors_snoc (px : List Rgb) (p : Rgb) :
    distinctColors (px ++ [p]) = if p ∈ distinctColors px then distinctColors px else distinctColors px ++ [p] := by
  rw [distinctColors, List.foldl_append]
  rfl

@[simp] theorem mem_distinctColors {q : Rgb} {px : List Rgb} : q ∈ distinctColors px ↔ q ∈ px := by
  induction px using List.reverseRecOn with
  | nil => rfl
  | append_singleton px p ih =>
    rw [distinctColors_snoc]
    split
    case isTrue hp =>
      have hq : q = p → q ∈ px := fun h => ih.mp (h ▸ hp)
      simpa [ih] using hq
    case isFalse => simp [ih]

/-- The distinct colours stand in order of first appearance: a colour added last appears after all before it. -/
theorem distinctColors_order (px : List Rgb) :
    (distinctColors px).Pairwise (fun p q => px.idxOf p < px.idxOf q) := by
  induction px using List.reverseRecOn with
  | nil => exact List.Pairwise.nil
  | append_singleton px p ih =>
    have hkeep : (distinctColors px).Pairwise (fun a b => (px ++ [p]).idxOf a < (px ++ [p]).idxOf b) := by
      refine ih.imp_of_mem fun ha hb hab => ?_
      rwa [List.idxOf_append_of_mem (mem_distinctColors.mp ha), List.idxOf_append_of_mem (mem_distinctColors.mp hb)]
    rw [distinctColors_snoc]
    split
    case isTrue => exact hkeep
    case isFalse hp =>
      refine List.pairwise_append.mpr ⟨hkeep, List.pairwise_singleton _ _, fun a ha b hb => ?_⟩
      obtain rfl := List.mem_singleton.mp hb
      rw [mem_distinctColors] at ha hp
      rw [List.idxOf_append_of_mem ha, List.idxOf_append_of_notMem hp]
      exact Nat.lt_of_lt_of_le (List.idxOf_lt_length_of_mem ha) (Nat.le_add_right _ _)

@[simp] theorem length_refPalette (px : List Rgb) (c : Nat) : (refPalette px c).length = c := by
  simp only [refPalette, List.length_append, List.length_take, List.length_replicate]
  omega

/-- An entry is the distinct colour of its number, or black past the last one. -/
theorem refPalette_getElem? (px : List Rgb) {c j : Nat} (hj : j < c) :
    (refPalette px c)[j]? = some ((distinctColors px)[j]?.getD ⟨0#8, 0#8, 0#8⟩) := by
  rw [refPalette]
  by_cases hd : j < (distinctColors px).length
  · rw [List.getElem?_append_left (by rw [List.length_take]; omega), List.getElem?_take_of_lt hj,
      List.getElem?_eq_getElem hd, Option.getD_some]
  · rw [List.getElem?_append_right (by rw [List.length_take]; omega), List.length_take,
      List.getElem?_replicate_of_lt (by omega), List.getElem?_eq_none (by omega), Option.getD_none]

/-! ## The distance of two colours -/

@[simp] theorem colorDist_self (p : Rgb) : colorDist p p = 0 := by simp [colorDist]

theorem colorDist_nonneg (p q : Rgb) : 0 ≤ colorDist p q := by
  unfold colorDist
  positivity

/-- Two components at squared distance 0 are one. -/
theorem byte_eq_of_sq_sub_eq_zero {x y : Byte} (h : ((x.toNat : Int) - y.toNat) ^ 2 = 0) : x = y :=
  BitVec.eq_of_toNat_eq (by exact_mod_cast sub_eq_zero.mp (pow_eq_zero_iff two_ne_zero |>.mp h))

theorem eq_of_colorDist_le_zero {p q : Rgb} (h : colorDist p q ≤ 0) : p = q := by
  unfold colorDist at h
  have hr := sq_nonneg ((p.r.toNat : Int) - q.r.toNat)
  have hg := sq_nonneg ((p.g.toNat : Int) - q.g.toNat)
  have hb := sq_nonneg ((p.b.toNat : Int) - q.b.toNat)
  exact (Rgb.mk.injEq ..).mpr ⟨byte_eq_of_sq_sub_eq_zero (by linarith), byte_eq_of_sq_sub_eq_zero (by linarith),
    byte_eq_of_sq_sub_eq_zero (by linarith)⟩

/-! ## The index REF_QUANT gives a pixel -/

/-- Entry `j` of a palette is `e`, none is nearer to `p`, and every entry before it is farther (R146). -/
structure LeastNearest (pal : List Rgb) (p : Rgb) (j : Nat) (e : Rgb) : Prop where
  entry : pal[j]? = some e
  nearest : ∀ (j' : Nat) (e' : Rgb), pal[j']? = some e' → colorDist e p ≤ colorDist e' p
  least : ∀ (j' : Nat) (e' : Rgb), j' < j → pal[j']? = some e' → colorDist e p < colorDist e' p

/-- An entry of a palette grown by one is an old entry or the new one. -/
theorem getElem?_snoc_cases {pal : List Rgb} {q e : Rgb} {j : Nat} (h : (pal ++ [q])[j]? = some e) :
    pal[j]? = some e ∨ j = pal.length ∧ e = q := by
  rcases lt_or_ge j pal.length with hj | hj
  · exact .inl (by rwa [List.getElem?_append_left hj] at h)
  · rw [List.getElem?_append_right hj, List.getElem?_singleton] at h
    split at h
    · exact .inr ⟨by omega, (Option.some.inj h).symm⟩
    · cases h

section LeastNearest
variable {pal : List Rgb} {p q e : Rgb} {j : Nat}

theorem LeastNearest.lt_length (h : LeastNearest pal p j e) : j < pal.length :=
  (List.getElem?_eq_some_iff.mp h.entry).1

/-- A new entry that is nearer than the nearest one takes its place. -/
theorem LeastNearest.snoc_nearer (h : LeastNearest pal p j e) (hq : colorDist q p < colorDist e p) :
    LeastNearest (pal ++ [q]) p pal.length q where
  entry := List.getElem?_concat_length
  nearest j' e' h' := by
    rcases getElem?_snoc_cases h' with h' | ⟨-, rfl⟩
    · exact (hq.trans_le (h.nearest j' e' h')).le
    · exact le_rfl
  least j' e' hj h' := by
    rw [List.getElem?_append_left hj] at h'
    exact hq.trans_le (h.nearest j' e' h')

/-- A new entry that is not nearer changes nothing. -/
theorem LeastNearest.snoc_not_nearer (h : LeastNearest pal p j e) (hq : colorDist e p ≤ colorDist q p) :
    LeastNearest (pal ++ [q]) p j e where
  entry := by rw [List.getElem?_append_left h.lt_length, h.entry]
  nearest j' e' h' := by
    rcases getElem?_snoc_cases h' with h' | ⟨-, rfl⟩
    · exact h.nearest j' e' h'
    · exact hq
  least j' e' hj h' := by
    rw [List.getElem?_append_left (hj.trans h.lt_length)] at h'
    exact h.least j' e' hj h'

/-- A pixel the palette holds gets itself. -/
theorem LeastNearest.eq_of_mem (h : LeastNearest pal p j e) (hp : p ∈ pal) : e = p := by
  obtain ⟨j', hj'⟩ := List.mem_iff_getElem?.mp hp
  exact eq_of_colorDist_le_zero (colorDist_self p ▸ h.nearest j' p hj')

end LeastNearest

/-- The search keeps the least index of a nearest entry among those it has seen. -/
theorem nearestFrom_leastNearest {p : Rgb} (rest : List Rgb) {seen : List Rgb} {best : Nat} {e : Rgb}
    (h : LeastNearest seen p best e) :
    ∃ e', LeastNearest (seen ++ rest) p (nearestFrom p rest seen.length best (colorDist e p)) e' := by
  induction rest generalizing seen best e with
  | nil => exact ⟨e, by simpa [nearestFrom] using h⟩
  | cons q rest ih =>
    have hlength : seen.length + 1 = (seen ++ [q]).length := by simp
    rw [nearestFrom, List.append_cons, hlength]
    split
    case isTrue hq => exact ih (h.snoc_nearer hq)
    case isFalse hq => exact ih (h.snoc_not_nearer (not_lt.mp hq))

theorem nearestIndex_leastNearest {pal : List Rgb} (hpal : pal ≠ []) (p : Rgb) :
    ∃ e, LeastNearest pal p (nearestIndex pal p) e := by
  cases pal with
  | nil => exact absurd rfl hpal
  | cons q rest =>
    have hfirst : LeastNearest [q] p 0 q :=
      ⟨rfl, fun j' e' h' => by obtain ⟨-, rfl⟩ := List.getElem?_eq_some_iff.mp h'; simp,
        fun j' e' h' => absurd h' (Nat.not_lt_zero _)⟩
    exact nearestFrom_leastNearest rest hfirst

/-- The first exact match is at distance 0, and every entry before it is not. -/
theorem exactMatch_leastNearest {pal : List Rgb} {p : Rgb} {j : Nat} (h : pal.findIdx? (fun q => q == p) = some j) :
    LeastNearest pal p j p := by
  obtain ⟨hj, heq, hbefore⟩ := List.findIdx?_eq_some_iff_getElem.mp h
  refine ⟨?_, fun j' e' _ => colorDist_self p ▸ colorDist_nonneg e' p, fun j' e' hlt h' => ?_⟩
  · rw [List.getElem?_eq_getElem hj, eq_of_beq heq]
  · obtain ⟨hj', rfl⟩ := List.getElem?_eq_some_iff.mp h'
    rw [colorDist_self]
    exact not_le.mp fun hle => hbefore j' hlt (beq_iff_eq.mpr (eq_of_colorDist_le_zero hle))

theorem refIndex_leastNearest {pal : List Rgb} (hpal : pal ≠ []) (p : Rgb) :
    ∃ e, LeastNearest pal p (refIndex pal p) e := by
  unfold refIndex
  split
  next j hj => exact ⟨p, exactMatch_leastNearest hj⟩
  next => exact nearestIndex_leastNearest hpal p

theorem refPalette_ne_nil (px : List Rgb) {c : Nat} (hc : 1 ≤ c) : refPalette px c ≠ [] :=
  List.ne_nil_of_length_pos (by rwa [length_refPalette])

theorem refIndex_refPalette_lt (px : List Rgb) {c : Nat} (hc : 1 ≤ c) (p : Rgb) : refIndex (refPalette px c) p < c := by
  obtain ⟨e, he⟩ := refIndex_leastNearest (refPalette_ne_nil px hc) p
  simpa only [length_refPalette] using he.lt_length

/-- Settles O30. -/
theorem refQuantPicksNearestEntry : Obligations.RefQuantPicksNearestEntry := by
  unfold Obligations.RefQuantPicksNearestEntry
  intro px c hc
  refine ⟨length_refPalette px c, List.length_map _,
    ⟨distinctColors px, fun p => mem_distinctColors, distinctColors_order px, fun j hj => refPalette_getElem? px hj⟩,
    fun k p hk => ?_⟩
  obtain ⟨e, he⟩ := refIndex_leastNearest (refPalette_ne_nil px hc) p
  have hindex : (refQuant px c).2[k]? = some (refIndex (refPalette px c) p) := by simp [refQuant, hk]
  exact ⟨_, e, hindex, he.entry, he.eq_of_mem, he.nearest, he.least⟩

/-! ## The laws of both functions (R144) -/

/-- Settles O29. The open function's indices are remainders by the count (log entry 7). -/
theorem quantizerLaws : Obligations.QuantizerLaws := by
  unfold Obligations.QuantizerLaws
  intro q w h px c hpx hc
  have hpos : 0 < c := validColors_pos hc
  cases q with
  | unnamed =>
    refine ⟨by simp [quantize], by simp [quantize], fun v hv => ?_⟩
    obtain ⟨k, -, rfl⟩ := List.mem_map.mp hv
    exact Nat.mod_lt _ hpos
  | ref =>
    refine ⟨length_refPalette px c, (List.length_map _).trans hpx, fun v hv => ?_⟩
    obtain ⟨p, -, rfl⟩ := List.mem_map.mp hv
    exact refIndex_refPalette_lt px hpos p

end Sys2Proof.Proofs.Quantizer
end

section
/-! PROOFS. IMG_BEGIN and PIXEL (41_quantizer.md R147, R148): what each writes, and the errors of its own rule. -/

namespace Sys2Proof.Proofs.Quantizer

open Sys2Proof.Machine Sys2Proof.Safety Sys2Proof.Proofs.State

/-- A legal command whose own rule fails only enters ERROR with that error (60_exceptions.md R283). -/
theorem exec_rule_error {i : Instr} {s : State} {m : Mode} (e : ErrorKind) (hm : s.mode = m)
    (hl : legality i.opcode m = .perform) (hb : commandRule i s = .error e) :
    exec i s = .next (errorEntry (errorCode e) i.opcode.code s) :=
  exec_error (hm ▸ hl) hb

/-! ## IMG_BEGIN (R147) -/

section imgBegin
variable {s : State} {c : BitVec 24}

theorem imgBeginRule_of_invalid (hc : ¬ validColors c.toNat = true) :
    imgBeginRule c s = .error .invalidColorDepth := by
  simp [imgBeginRule, hc]

theorem imgBeginRule_of_overCapacity (hc : validColors c.toNat = true)
    (hcap : s.cfg.maxPixels.val < s.w.toNat * s.h.toNat) : imgBeginRule c s = .error .capacity := by
  simp [imgBeginRule, hc, hcap]

theorem imgBeginRule_of_fits (hc : validColors c.toNat = true)
    (hcap : s.w.toNat * s.h.toNat ≤ s.cfg.maxPixels.val) : imgBeginRule c s = .ok (commandEffect (.imgBegin c) s) := by
  simp [imgBeginRule, commandEffect, hc, hcap]

end imgBegin

/-- COLORS takes the count's low bits. -/
theorem setWidth_count {c : BitVec 24} {n : Nat} (h : c.toNat = n) : c.setWidth 9 = BitVec.ofNat 9 n :=
  BitVec.eq_of_toNat_eq (by rw [BitVec.toNat_setWidth, BitVec.toNat_ofNat, h])

/-- Settles O31. -/
theorem imgBeginOpensImage : Obligations.ImgBeginOpensImage := by
  unfold Obligations.ImgBeginOpensImage
  intro s c k hm hk hc hcap
  have hvalid : validColors c.toNat = true := hc ▸ validColors_two_pow hk
  have hrule := imgBeginRule_of_fits hvalid hcap
  rw [exec_ok (i := .imgBegin c) (hm ▸ rfl) hrule, commandEffect, setWidth_count hc, hc, bppOf_two_pow]

/-- Settles O32. -/
theorem imgBeginRejects : Obligations.ImgBeginRejects := by
  unfold Obligations.ImgBeginRejects
  intro s c hm
  rw [← validColors_iff_mem]
  exact ⟨fun hc => exec_rule_error .invalidColorDepth hm rfl (imgBeginRule_of_invalid hc),
    fun hc hcap => exec_rule_error .capacity hm rfl (imgBeginRule_of_overCapacity hc hcap)⟩

/-! ## PIXEL (R148) -/

theorem pixelRule_of_complete {s : State} (p : Rgb) (h : s.pixCount.toNat = imagePixels s) :
    pixelRule p s = .error .pixelCount := if_pos h

theorem pixelRule_of_incomplete {s : State} (r g b : Byte) (h : s.pixCount.toNat ≠ imagePixels s) :
    pixelRule ⟨r, g, b⟩ s = .ok (commandEffect (.pixel r g b) s) := if_neg h

/-- Settles O33. -/
theorem pixelWritesNextElement : Obligations.PixelWritesNextElement := by
  unfold Obligations.PixelWritesNextElement
  intro s r g b hm
  constructor
  · intro hmore
    have hrule := pixelRule_of_incomplete r g b hmore
    exact ⟨commandEffect (.pixel r g b) s, exec_ok (hm ▸ rfl) hrule, bufRead_bufWrite_same _ _ _,
      fun k hk => bufRead_bufWrite_other _ _ hk, rfl⟩
  · exact fun hall => exec_rule_error .pixelCount hm rfl (pixelRule_of_complete _ hall)

end Sys2Proof.Proofs.Quantizer
end

section
/-! PROOFS. The packer (42_packer.md R173, R177, R178): how long a packed sequence is, that unpacking undoes packing, and how
the bytes of a concatenation split where its first part ends with a whole byte. -/

namespace Sys2Proof.Proofs.Packer

open Sys2Proof.Machine Sys2Proof.Proofs.Memory

/-! ## Length (R173, R177) -/

theorem length_pack (xs : List Nat) (b : Nat) : (pack xs b).length = (xs.length * b + 7) / 8 := by
  rw [pack, length_toBytes, length_packBits, Nat.mul_comm]
  rfl

@[simp] theorem packBits_zero (xs : List Nat) : packBits xs 0 = [] :=
  List.eq_nil_of_length_eq_zero (by rw [length_packBits, Nat.zero_mul])

@[simp] theorem toBytes_nil : toBytes [] = [] := rfl

theorem pack_zero (xs : List Nat) : pack xs 0 = [] := by
  rw [pack, packBits_zero, toBytes_nil]

theorem pack_nil (b : Nat) : pack [] b = [] := toBytes_nil

/-- Settles O38: every element packs to `b` bits. -/
theorem packLength : Obligations.PackLength := by
  unfold Obligations.PackLength
  exact ⟨fun xs b => ⟨rfl, length_pack xs b⟩, fun xs => ⟨packBits_zero xs, pack_zero xs⟩, pack_nil⟩

/-! ## Unpacking (R178) -/

/-- Settles O40: element `k`'s bits stand at `b · k`, and reading them gives the element. -/
theorem unpackOfPack : Obligations.UnpackOfPack := by
  unfold Obligations.UnpackOfPack
  intro xs b k x hlt hk
  rw [unpack, pack, Nat.mul_comm]
  exact readBits_toBytes (bitsOf_prefix_packBits b hk) (hlt x (List.mem_of_getElem? hk))

/-! ## Bytes of a concatenation -/

/-- A byte depends on its own eight bits only. -/
theorem byteOfBits_congr {bs cs : List Bool} {i k : Nat}
    (h : ∀ j < 8, bs.getD (8 * i + j) false = cs.getD (8 * k + j) false) : byteOfBits bs i = byteOfBits cs k := by
  rw [byteOfBits, byteOfBits, List.map_congr_left fun j hj => by rw [h j (List.mem_range.mp hj)]]

/-- Zero bits that fill the last byte change no byte (R172). -/
theorem toBytes_append_zeros (bs : List Bool) {n : Nat} (hn : ceilDiv (bs.length + n) 8 = ceilDiv bs.length 8) :
    toBytes (bs ++ List.replicate n false) = toBytes bs := by
  have hbit : ∀ s, (bs ++ List.replicate n false).getD s false = bs.getD s false := by
    intro s
    rcases Nat.lt_or_ge s bs.length with hs | hs
    · exact List.getD_append _ _ _ _ hs
    · rw [List.getD_append_right _ _ _ _ hs, List.getD_eq_default bs _ hs, List.getD_eq_getElem?_getD,
        List.getElem?_getD_replicate_default_eq]
  rw [toBytes, toBytes, List.length_append, List.length_replicate, hn]
  exact List.map_congr_left fun i _ => byteOfBits_congr fun j _ => hbit _

/-- Where the first part ends with a whole byte, the second begins a byte. -/
theorem toBytes_append {bs : List Bool} (cs : List Bool) (h : 8 ∣ bs.length) :
    toBytes (bs ++ cs) = toBytes bs ++ toBytes cs := by
  obtain ⟨n, hn⟩ := h
  have hbytes : ceilDiv bs.length 8 = n := by
    rw [ceilDiv]
    omega
  have hsum : ceilDiv (bs ++ cs).length 8 = n + ceilDiv cs.length 8 := by
    rw [List.length_append, ceilDiv, ceilDiv]
    omega
  have hfirst : ∀ i ∈ List.range n, byteOfBits (bs ++ cs) i = byteOfBits bs i := by
    intro i hi
    have hi := List.mem_range.mp hi
    exact byteOfBits_congr fun j hj => List.getD_append _ _ _ _ (by omega)
  have hsecond : ∀ i, byteOfBits (bs ++ cs) (n + i) = byteOfBits cs i := by
    intro i
    refine byteOfBits_congr fun j _ => ?_
    rw [List.getD_append_right _ _ _ _ (by omega), hn, show 8 * (n + i) + j - 8 * n = 8 * i + j by omega]
  rw [toBytes, hsum, List.range_add, List.map_append, List.map_map, List.map_congr_left hfirst, toBytes, hbytes, toBytes]
  exact congrArg _ (List.map_congr_left fun i _ => hsecond i)

theorem toBytes_flatMap {α : Type} {f : α → List Bool} {xs : List α} (h : ∀ x ∈ xs, 8 ∣ (f x).length) :
    toBytes (xs.flatMap f) = xs.flatMap (fun x => toBytes (f x)) := by
  induction xs with
  | nil => rw [List.flatMap_nil, List.flatMap_nil, toBytes_nil]
  | cons x rest ih =>
    obtain ⟨hx, hrest⟩ := List.forall_mem_cons.mp h
    rw [List.flatMap_cons, List.flatMap_cons, toBytes_append _ hx, ih hrest]

end Sys2Proof.Proofs.Packer
end

section
/-! PROOFS. The bitmap section of a font (42_packer.md R179): the offset of each glyph, and the bytes with either value of
GLYPH_BYTE_ALIGN. -/

namespace Sys2Proof.Proofs.Packer

open Sys2Proof.Machine Sys2Proof.Safety Sys2Proof.Proofs.State Sys2Proof.Proofs.Memory

theorem padBits_false (n : Nat) : padBits false n = n := rfl

theorem glyphOffset_succ {gs : List Glyph} {i : Nat} {g : Glyph} (align : Bool) (fh b : Nat) (hg : gs[i]? = some g) :
    glyphOffset align gs fh b (i + 1) = glyphOffset align gs fh b i + padBits align (needBits g fh b) := by
  rw [glyphOffset, List.take_add_one, hg, Option.toList_some, sectionBits_append, glyphOffset]

theorem glyphSlot_false (fh b : Nat) (g : Glyph) : glyphSlot false fh b g = packBits (g.samples.map BitVec.toNat) b := by
  rw [glyphSlot, padBits_false, Nat.sub_self, List.replicate_zero, List.append_nil]

theorem glyphSection_false (gs : List Glyph) (fh b : Nat) :
    glyphSection false gs fh b = pack (gs.flatMap (fun g => g.samples.map BitVec.toNat)) b := by
  rw [glyphSection, pack, packBits, List.flatMap_assoc]
  exact congrArg toBytes (List.flatMap_congr fun g _ => glyphSlot_false fh b g)

/-- The padding of a complete glyph fills its last byte. -/
theorem toBytes_glyphSlot_true {fh : Nat} {g : Glyph} (b : Nat) (hg : GlyphDone fh g) :
    toBytes (glyphSlot true fh b g) = pack (g.samples.map BitVec.toNat) b := by
  refine toBytes_append_zeros _ ?_
  rw [length_packBits_samples b hg, padBits_true, ceilDiv, ceilDiv]
  omega

theorem glyphSection_true {gs : List Glyph} {fh : Nat} (b : Nat) (h : ∀ g ∈ gs, GlyphDone fh g) :
    glyphSection true gs fh b = gs.flatMap (fun g => pack (g.samples.map BitVec.toNat) b) := by
  have hslot : ∀ g ∈ gs, 8 ∣ (glyphSlot true fh b g).length := by
    intro g hg
    rw [length_glyphSlot true b (h g hg), padBits_true]
    exact Nat.dvd_mul_right 8 _
  rw [glyphSection, toBytes_flatMap hslot]
  exact List.flatMap_congr fun g hg => toBytes_glyphSlot_true b (h g hg)

/-- Settles O60: with false every slot is its samples alone, with true every slot is whole bytes. -/
theorem glyphSectionOfTable : Obligations.GlyphSectionOfTable := by
  unfold Obligations.GlyphSectionOfTable
  intro gs fh b need
  exact ⟨fun n => ⟨padBits_false n, padBits_true n⟩,
    fun align => ⟨sectionBits_nil align fh b, fun i g hg => glyphOffset_succ align fh b hg, rfl⟩,
    fun hdone => ⟨glyphSection_false gs fh b, glyphSection_true b hdone⟩⟩

end Sys2Proof.Proofs.Packer
end

section
/-! PROOFS. The colour transcoder (43_transcoder.md R190 to R195): masks and shifts as fields of bits, the RGB565 value and
the wire value as concatenations of such fields, and XCODE's response. -/

namespace Sys2Proof.Proofs.Transcoder

open Sys2Proof.Machine Sys2Proof.Proofs.Dispatch

/-! ## Fields of bits -/

theorem append_inj {v w : Nat} {a b : BitVec v} {c d : BitVec w} : a ++ c = b ++ d ↔ a = b ∧ c = d := by
  refine ⟨fun h => ⟨?high, ?low⟩, fun ⟨hab, hcd⟩ => by rw [hab, hcd]⟩
  case high => simpa only [BitVec.extractLsb'_append_eq_left] using congrArg (BitVec.extractLsb' w v) h
  case low => simpa only [BitVec.extractLsb'_append_eq_right] using congrArg (BitVec.extractLsb' 0 w) h

/-- A shift to the right leaves the field above the bits it drops. -/
theorem setWidth_ushiftRight_eq_field {w len k v : Nat} (x : BitVec w) (hw : w = len + k) (hv : w ≤ v) :
    x.setWidth v >>> k = (x.extractLsb' k len).setWidth v := by
  ext i hi
  rw [BitVec.getElem_ushiftRight, BitVec.getElem_setWidth, BitVec.getLsbD_extractLsb', BitVec.getLsbD_setWidth]
  by_cases hlen : i < len
  · rw [decide_eq_true hlen, decide_eq_true (by omega)]
  · rw [decide_eq_false hlen, Bool.false_and, BitVec.getLsbD_of_ge x (k + i) (by omega), Bool.and_false]

/-- A mask without its low `k` bits leaves the field above them where it stands. -/
theorem setWidth_and_topMask {w len k v : Nat} (x : BitVec w) (hw : w = len + k) (hv : w ≤ v) :
    x.setWidth v &&& (BitVec.allOnes w <<< k).setWidth v = (x.extractLsb' k len).setWidth v <<< k := by
  rw [← setWidth_ushiftRight_eq_field x hw hv, BitVec.shiftLeft_ushiftRight]
  ext i hi
  by_cases hiw : i < w
  · simp [hiw]
  · simp [BitVec.getLsbD_of_ge x i (by omega)]

/-- A mask of the low bits leaves the field they are. -/
theorem and_lowMask {w len : Nat} (x : BitVec w) :
    x &&& (BitVec.allOnes len).setWidth w = (x.extractLsb' 0 len).setWidth w := by
  ext i hi
  simp [BitVec.getLsbD_eq_getElem hi, Bool.and_comm]

/-! ## The RGB565 value and the wire value (R190, R191) -/

/-- The three terms of the formula stand side by side. -/
theorem fields_eq_shifts (r : BitVec 5) (g : BitVec 6) (b : BitVec 5) :
    r ++ (g ++ b) = r.setWidth 16 <<< 11 ||| (g.setWidth 16 <<< 5 ||| b.setWidth 16) :=
  calc
    r ++ (g ++ b) = (r ++ (g ++ b)).setWidth 16 := (BitVec.setWidth_eq _).symm
    _ = r.setWidth 16 <<< 11 ||| (g ++ b).setWidth 16 := BitVec.setWidth_append_eq_shiftLeft_setWidth_or
    _ = _ := by rw [BitVec.setWidth_append_eq_shiftLeft_setWidth_or]

theorem rgb565_eq_fields (p : Rgb) :
    rgb565 p = p.r.extractLsb' 3 5 ++ (p.g.extractLsb' 2 6 ++ p.b.extractLsb' 3 5) := by
  have hr : p.r.setWidth 16 &&& 0xF8#16 = (p.r.extractLsb' 3 5).setWidth 16 <<< 3 :=
    setWidth_and_topMask (k := 3) p.r rfl (by decide)
  have hg : p.g.setWidth 16 &&& 0xFC#16 = (p.g.extractLsb' 2 6).setWidth 16 <<< 2 :=
    setWidth_and_topMask (k := 2) p.g rfl (by decide)
  have hb : p.b.setWidth 16 >>> 3 = (p.b.extractLsb' 3 5).setWidth 16 :=
    setWidth_ushiftRight_eq_field p.b rfl (by decide)
  rw [rgb565, hr, hg, hb, fields_eq_shifts, ← BitVec.shiftLeft_add, ← BitVec.shiftLeft_add, BitVec.or_assoc]

theorem wireColor_eq_swap (p : Rgb) :
    wireColor p = (rgb565 p).extractLsb' 0 8 ++ (rgb565 p).extractLsb' 8 8 := by
  have hlow : rgb565 p &&& 0x00FF#16 = ((rgb565 p).extractLsb' 0 8).setWidth 16 := and_lowMask (len := 8) (rgb565 p)
  have hhigh : rgb565 p >>> 8 = ((rgb565 p).extractLsb' 8 8).setWidth 16 := by
    simpa only [BitVec.setWidth_eq] using setWidth_ushiftRight_eq_field (rgb565 p) (v := 16) rfl (Nat.le_refl 16)
  rw [wireColor, hlow, hhigh, ← BitVec.setWidth_append_eq_shiftLeft_setWidth_or]
  exact BitVec.setWidth_eq _

/-! ## Which colours share a wire value (R194) -/

/-- The swap loses nothing: the two bytes, put back in order, are the value. -/
theorem wireColor_inj {p q : Rgb} : wireColor p = wireColor q ↔ rgb565 p = rgb565 q := by
  have hbytes (x : BitVec 16) : x.extractLsb' 8 8 ++ x.extractLsb' 0 8 = x := BitVec.extractLsb'_append_extractLsb'
  rw [wireColor_eq_swap, wireColor_eq_swap, append_inj, and_comm, ← append_inj, hbytes, hbytes]

theorem rgb565_inj {p q : Rgb} :
    rgb565 p = rgb565 q ↔ p.r.extractLsb' 3 5 = q.r.extractLsb' 3 5 ∧ p.g.extractLsb' 2 6 = q.g.extractLsb' 2 6 ∧
      p.b.extractLsb' 3 5 = q.b.extractLsb' 3 5 := by
  rw [rgb565_eq_fields, rgb565_eq_fields, append_inj, append_inj]

/-- Settles O27: the swap loses nothing, and the RGB565 value is its three fields side by side. -/
theorem wireColorLosesExactlyLowBits : Obligations.WireColorLosesExactlyLowBits := by
  unfold Obligations.WireColorLosesExactlyLowBits
  exact fun p q => ⟨rgb565_eq_fields p, wireColor_eq_swap p, wireColor_inj.trans rgb565_inj⟩

/-! ## XCODE (R195) -/

theorem xcode_performed {m : Mode} (hm : m ≠ .error) : legality .xcode m = .perform := by
  cases m with
  | error => exact absurd rfl hm
  | _ => rfl

theorem exec_xcode {s : State} (r g b : Byte) (hm : s.mode ≠ .error) :
    exec (.xcode r g b) s = .next (respond 0x30#8 0x00#8 (wireColor ⟨r, g, b⟩) s) :=
  exec_ok (xcode_performed hm) rfl

/-- Settles O26: outside ERROR the response carries the two bytes of the fields, and in ERROR there is none. -/
theorem xcodeAnswersWireColor : Obligations.XcodeAnswersWireColor := by
  unfold Obligations.XcodeAnswersWireColor
  intro s r g b
  refine ⟨fun hm => ?performed, fun hm => ?discarded⟩
  case performed =>
    rw [exec_xcode r g b hm, wireColor_eq_swap, rgb565_eq_fields]
    rfl
  case discarded => exact exec_discarded_in_error hm nofun nofun nofun

end Sys2Proof.Proofs.Transcoder
end

section
/-! PROOFS. Emission (44_serializer.md R232, R233): an emitted container's last byte is marked and no other, OUT stays whole
under every step, and how long the two containers are. -/

namespace Sys2Proof.Proofs.Serializer

open Sys2Proof.Machine Sys2Proof.Proofs.State Sys2Proof.Proofs.Memory Sys2Proof.Proofs.Packer

/-- Settles O59: a command appends a whole container or nothing, and a reset empties OUT. -/
theorem stepKeepsOutputWhole : Obligations.StepKeepsOutputWhole :=
  fun _ _ hs h => wholeOutput_keptByParts.step h hs

theorem markLast_marks_last {bs : List Byte} {i : Nat} {x : Byte × Bool} (h : (markLast bs)[i]? = some x) :
    x.2 = true ↔ i + 1 = bs.length := by
  induction bs generalizing i with
  | nil => simp [markLast] at h
  | cons b rest ih =>
    obtain ⟨hi, -⟩ := List.getElem?_eq_some_iff.mp h
    rw [markLast_length] at hi
    cases rest with
    | nil =>
      obtain rfl : i = 0 := Nat.lt_one_iff.mp hi
      cases h
      simp
    | cons c rest =>
      cases i with
      | zero =>
        cases h
        simp
      | succ i => rw [ih h, List.length_cons (a := b), Nat.add_left_inj]

theorem length_imgContainer (iw ih colors bpp : Nat) (pal : List Rgb) (idx : List Nat) :
    (imgContainer iw ih colors bpp pal idx).length = 6 + 2 * pal.length + (idx.length * bpp + 7) / 8 := by
  rw [imgContainer, List.length_append, length_pack]
  simp +arith

theorem length_fontContainer (cfg : Params) (gs : List Glyph) (fh b : Nat) :
    (fontContainer cfg gs fh b).length =
      12 + mapLen gs + (widthEntryBytes cfg.widthEntry + offsetBytes cfg.glyphByteAlign gs fh b) * gs.length
        + (glyphSection cfg.glyphByteAlign gs fh b).length := by
  simp only [fontContainer, List.length_append, length_charMap, length_widths, length_offsets, length_leBytes,
    Vector.length_toList, List.length_singleton, Nat.add_mul]
  omega

/-- Settles O51. -/
theorem emissionMarksLastByteOnly : Obligations.EmissionMarksLastByteOnly := by
  unfold Obligations.EmissionMarksLastByteOnly
  refine ⟨fun bs => ⟨markLast_bytes bs, fun i x h => markLast_marks_last h⟩, ?image, ?font⟩
  case image =>
    intro iw ih c b pal idx hpal
    rw [length_imgContainer]
    omega
  case font =>
    intro cfg gs fh b
    rw [length_fontContainer]
    omega

end Sys2Proof.Proofs.Serializer
end

section
/-! PROOFS. Images (44_serializer.md R211 to R216, R234): the layout of the IMG container, what IMG_END does, and what its
bytes depend on. -/

namespace Sys2Proof.Proofs.Serializer

open Sys2Proof.Machine Sys2Proof.Safety Sys2Proof.Proofs.State Sys2Proof.Proofs.Memory Sys2Proof.Proofs.Quantizer

/-! ## The layout (R211 to R214) -/

section imgContainer
variable {iw ih colors bpp : Nat} {pal : List Rgb} {idx : List Nat}

theorem imgContainer_height (h : ih < 65536) : fieldAt (imgContainer iw ih colors bpp pal idx) 2 2 = ih :=
  fieldAt_of_prefix (imgBlock_prefix (i := 1) rfl) h

theorem imgContainer_colors : byteAt (imgContainer iw ih colors bpp pal idx) 4 = colors % 256 :=
  (byteAt_of_prefix (imgBlock_prefix (i := 2) rfl)).trans (Nat.mod_mod colors 256)

end imgContainer

/-- Settles O35: each part stands where the parts before it end. -/
theorem imgContainerLayout : Obligations.ImgContainerLayout := by
  unfold Obligations.ImgContainerLayout
  intro iw ih k pal idx hiw hih hk hpal hidx c
  refine ⟨?length, imgContainer_width hiw, imgContainer_height hih, imgContainer_colors,
    imgContainer_bpp (by omega), fun j p => imgContainer_paletteEntry, ?bitmap⟩
  case length => rw [length_imgContainer, hpal, hidx]
  case bitmap => exact hpal ▸ imgContainer_bitmap

/-! ## IMG_END (R216) -/

theorem imgEndRule_of_complete {s : State} (h : s.pixCount.toNat = imagePixels s) :
    imgEndRule s = .ok (commandEffect .imgEnd s) := if_neg (not_not_intro h)

theorem imgEndRule_of_incomplete {s : State} (h : s.pixCount.toNat ≠ imagePixels s) :
    imgEndRule s = .error .pixelCount := if_pos h

theorem exec_imgEnd_of_complete {s : State} (hm : s.mode = .img) (h : s.pixCount.toNat = imagePixels s) :
    exec .imgEnd s = .next (commandEffect .imgEnd s) :=
  exec_ok (hm ▸ rfl) (imgEndRule_of_complete h)

theorem exec_imgEnd_of_incomplete {s : State} (hm : s.mode = .img) (h : s.pixCount.toNat ≠ imagePixels s) :
    exec .imgEnd s = .next (errorEntry 0x05#8 0x12#8 s) :=
  exec_rule_error .pixelCount hm rfl (imgEndRule_of_incomplete h)

theorem imgEnd_response : responseWord Opcode.imgEnd.code 0#8 0#16 = 0x12000000#32 := by decide

/-- Settles O34. -/
theorem imgEndEmitsContainer : Obligations.ImgEndEmitsContainer := by
  unfold Obligations.ImgEndEmitsContainer
  refine fun s hm => ⟨fun hall => ⟨_, _, rfl, ?_⟩, exec_imgEnd_of_incomplete hm⟩
  rw [exec_imgEnd_of_complete hm hall, ← imgEnd_response]
  rfl

/-! ## What the bytes depend on (R234) -/

theorem pixelAt_congr {s t : State} {k : Nat} (h : bufRead s.pixbuf k = bufRead t.pixbuf k) :
    pixelAt s k = pixelAt t k := by
  rw [pixelAt, pixelAt, h]

theorem imagePixels_congr {s t : State} (hiw : s.iw = t.iw) (hih : s.ih = t.ih) : imagePixels s = imagePixels t := by
  rw [imagePixels, imagePixels, hiw, hih]

/-- The container is a function of the configuration, the size, the colours and the pixels of the image. -/
theorem openImage_congr {s t : State} (hcfg : s.cfg = t.cfg) (hiw : s.iw = t.iw) (hih : s.ih = t.ih)
    (hcolors : s.colors = t.colors) (hbpp : s.bpp = t.bpp)
    (hbuf : ∀ k < imagePixels s, bufRead s.pixbuf k = bufRead t.pixbuf k) : openImage s = openImage t := by
  have hpx : imagePx s = imagePx t := by
    rw [imagePx, imagePx, ← imagePixels_congr hiw hih]
    exact List.map_congr_left fun k hk => pixelAt_congr (hbuf k (List.mem_range.mp hk))
  have hquant : imageQuant s = imageQuant t := by
    rw [imageQuant, imageQuant, hcfg, hiw, hih, hpx, hcolors]
  rw [openImage, openImage, hiw, hih, hcolors, hbpp, hquant]

/-- Settles O37: with the same pixel count both states emit the same container or neither emits anything. -/
theorem imageOutputDependsOnImageOnly : Obligations.ImageOutputDependsOnImageOnly := by
  unfold Obligations.ImageOutputDependsOnImageOnly
  intro s t hs ht hcfg hiw hih hcolors hbpp hcount hbuf
  have hiff : s.pixCount.toNat = imagePixels s ↔ t.pixCount.toNat = imagePixels t := by
    rw [hcount, imagePixels_congr hiw hih]
  by_cases hall : s.pixCount.toNat = imagePixels s
  · refine ⟨_, _, markLast (openImage s), exec_imgEnd_of_complete hs hall,
      exec_imgEnd_of_complete ht (hiff.mp hall), rfl, ?_⟩
    rw [openImage_congr hcfg hiw hih hcolors hbpp hbuf]
    rfl
  · exact ⟨_, _, [], exec_imgEnd_of_incomplete hs hall, exec_imgEnd_of_incomplete ht (hall ∘ hiff.mpr),
      (List.append_nil _).symm, (List.append_nil _).symm⟩

end Sys2Proof.Proofs.Serializer
end

section
/-! PROOFS. The font commands (44_serializer.md R228 to R231): what each leaves, and the errors of its own rule in their
order (60_exceptions.md R287). -/

namespace Sys2Proof.Proofs.Serializer

open Sys2Proof.Machine Sys2Proof.Safety Sys2Proof.Proofs.State Sys2Proof.Proofs.Quantizer

/-- A register takes the low bits of an operand. -/
theorem setWidth_eq_ofNat {w : Nat} (v : Nat) (x : BitVec w) : x.setWidth v = BitVec.ofNat v x.toNat :=
  BitVec.eq_of_toNat_eq (by rw [BitVec.toNat_setWidth, BitVec.toNat_ofNat])

/-! ## FONT_BEGIN (R228) -/

theorem fontBeginRule_of_valid {n : BitVec 24} (s : State) (h : 1 ≤ n.toNat ∧ n.toNat ≤ 8) :
    fontBeginRule n s = .ok (commandEffect (.fontBegin n) s) := if_neg (by omega)

theorem fontBeginRule_of_invalid {n : BitVec 24} (s : State) (h : n.toNat = 0 ∨ 8 < n.toNat) :
    fontBeginRule n s = .error .bpp := if_pos (by omega)

/-- Settles O41. -/
theorem fontBeginOpensFont : Obligations.FontBeginOpensFont := by
  unfold Obligations.FontBeginOpensFont
  intro s n hm
  refine ⟨fun h => ?opens, fun h => exec_rule_error .bpp hm rfl (fontBeginRule_of_invalid s h)⟩
  case opens =>
    rw [exec_ok (i := .fontBegin n) (hm ▸ rfl) (fontBeginRule_of_valid s h), commandEffect, setWidth_eq_ofNat]

/-! ## GLYPH_BEGIN (R229) -/

theorem scalarValue_iff {code : Nat} :
    scalarValue code = true ↔ code ≤ 0x10FFFF ∧ ¬ (0xD800 ≤ code ∧ code ≤ 0xDFFF) := by
  simp only [scalarValue, Bool.and_eq_true, Bool.not_eq_true', Bool.and_eq_false_iff, decide_eq_true_eq,
    decide_eq_false_iff_not]
  omega

theorem outOfOrder_eq_false_iff {gs : List Glyph} {code : Nat} :
    outOfOrder gs code = false ↔ ∀ g, gs.getLast? = some g → g.code.toNat < code := by
  unfold outOfOrder
  cases gs.getLast? <;> simp

theorem overCapacity_iff {s : State} {code : Nat} :
    overCapacity s code = true ↔
      s.cfg.maxGlyphs.val < s.glyphs.length + 1 ∨ 65535 < mapLen s.glyphs + utf8len code ∨
      s.cfg.maxGlyphBits.val < sectionBits s.cfg.glyphByteAlign s.glyphs s.fh.toNat s.fbpp.toNat
        + padBits s.cfg.glyphByteAlign (s.w.toNat * s.fh.toNat * s.fbpp.toNat) := by
  simp [overCapacity, or_assoc]

section glyphBegin
variable {s : State} {c : BitVec 24}

theorem glyphBeginRule_of_noScalar (hc : ¬ scalarValue c.toNat = true) : glyphBeginRule c s = .error .char := by
  simp [glyphBeginRule, hc]

theorem glyphBeginRule_of_outOfOrder (hc : scalarValue c.toNat = true) (ho : ¬ outOfOrder s.glyphs c.toNat = false) :
    glyphBeginRule c s = .error .charOrder := by
  simp [glyphBeginRule, hc, ho]

theorem glyphBeginRule_of_tooWide (hc : scalarValue c.toNat = true) (ho : outOfOrder s.glyphs c.toNat = false)
    (hw : s.cfg.widthEntry = .one ∧ 255 < s.w.toNat) : glyphBeginRule c s = .error .glyphWidth := by
  simp [glyphBeginRule, hc, ho, hw]

theorem glyphBeginRule_of_noRoom (hc : scalarValue c.toNat = true) (ho : outOfOrder s.glyphs c.toNat = false)
    (hw : ¬ (s.cfg.widthEntry = .one ∧ 255 < s.w.toNat)) (hroom : overCapacity s c.toNat = true) :
    glyphBeginRule c s = .error .capacity := by
  rw [glyphBeginRule, if_neg (by simp [hc]), if_neg (by simp [ho]), if_neg hw, if_pos hroom]

theorem glyphBeginRule_of_fits (hc : scalarValue c.toNat = true) (ho : outOfOrder s.glyphs c.toNat = false)
    (hw : ¬ (s.cfg.widthEntry = .one ∧ 255 < s.w.toNat)) (hroom : ¬ overCapacity s c.toNat = true) :
    glyphBeginRule c s = .ok (commandEffect (.glyphBegin c) s) := by
  rw [glyphBeginRule, if_neg (by simp [hc]), if_neg (by simp [ho]), if_neg hw, if_neg hroom, commandEffect]

end glyphBegin

/-- Settles O42: each check of the rule is passed. -/
theorem glyphBeginAppendsGlyph : Obligations.GlyphBeginAppendsGlyph := by
  unfold Obligations.GlyphBeginAppendsGlyph
  intro s c hm hle hsurrogate horder hwidth hglyphs hmap hbits
  have hroom : ¬ overCapacity s c.toNat = true := by
    rw [overCapacity_iff]
    omega
  have hrule := glyphBeginRule_of_fits (scalarValue_iff.mpr ⟨hle, hsurrogate⟩) (outOfOrder_eq_false_iff.mpr horder)
    (fun ⟨hone, hlt⟩ => Nat.not_lt.mpr (hwidth hone) hlt) hroom
  rw [exec_ok (i := .glyphBegin c) (hm ▸ rfl) hrule, commandEffect, setWidth_eq_ofNat]

/-- Settles O43: each check of the rule fails with the checks before it passed. -/
theorem glyphBeginRejects : Obligations.GlyphBeginRejects := by
  unfold Obligations.GlyphBeginRejects
  intro s c hm
  rw [← scalarValue_iff, ← outOfOrder_eq_false_iff, ← overCapacity_iff]
  exact ⟨fun hc => exec_rule_error .char hm rfl (glyphBeginRule_of_noScalar hc),
    fun hc ho => exec_rule_error .charOrder hm rfl (glyphBeginRule_of_outOfOrder hc ho),
    fun hc ho hw => exec_rule_error .glyphWidth hm rfl (glyphBeginRule_of_tooWide hc ho hw),
    fun hc ho hw hroom => exec_rule_error .capacity hm rfl (glyphBeginRule_of_noRoom hc ho hw hroom)⟩

/-! ## SAMPLE (R230) -/

theorem sampleRule_of_inRange {s : State} {v : BitVec 24} (h : v.toNat < 2 ^ s.fbpp.toNat) :
    sampleRule v s = .ok (commandEffect (.sample v) s) := if_neg (Nat.not_le.mpr h)

theorem sampleRule_of_outOfRange {s : State} {v : BitVec 24} (h : 2 ^ s.fbpp.toNat ≤ v.toNat) :
    sampleRule v s = .error .sampleRange := if_pos h

/-- Settles O44. -/
theorem sampleExtendsOpenGlyph : Obligations.SampleExtendsOpenGlyph := by
  unfold Obligations.SampleExtendsOpenGlyph
  intro s v gs g hm hgs
  refine ⟨fun h => ?appends, fun h => exec_rule_error .sampleRange hm rfl (sampleRule_of_outOfRange h)⟩
  case appends =>
    obtain ⟨hglyphs, hmode⟩ := commandEffect_sample (v := v) hm hgs
    rw [exec_ok (i := .sample v) (hm ▸ rfl) (sampleRule_of_inRange h), ← hmode, ← setWidth_eq_ofNat, ← hglyphs]
    rfl

/-! ## FONT_END (R231) -/

theorem fontEnd_response : responseWord Opcode.fontEnd.code 0#8 0#16 = 0x23000000#32 := by decide

/-- Settles O45. -/
theorem fontEndEmitsContainer : Obligations.FontEndEmitsContainer := by
  unfold Obligations.FontEndEmitsContainer
  intro s hm
  have hrule : fontEndRule s = .ok (commandEffect .fontEnd s) := rfl
  rw [exec_ok (i := .fontEnd) (hm ▸ rfl) hrule, ← fontEnd_response]
  rfl

end Sys2Proof.Proofs.Serializer
end

section
/-! PROOFS. The FONT container (44_serializer.md R217 to R227): the characters of the map as UTF-8, the width of an
offset-table entry, the largest width, and the layout of the header. -/

namespace Sys2Proof.Proofs.Serializer

open Sys2Proof.Machine Sys2Proof.Safety Sys2Proof.Proofs.State Sys2Proof.Proofs.Memory

/-! ## UTF-8 (R222) -/

/-- A field of a code below `2^21`, as the low bits of a byte. -/
theorem ofNat_field (code k : Nat) {len : Nat} (h : k + len ≤ 21) :
    BitVec.ofNat 8 (code >>> k % 2 ^ len) = ((BitVec.ofNat 21 code).extractLsb' k len).setWidth 8 := by
  refine BitVec.eq_of_getLsbD_eq fun i _ => ?_
  rw [BitVec.getLsbD_ofNat, Nat.testBit_mod_two_pow, Nat.testBit_shiftRight, BitVec.getLsbD_setWidth,
    BitVec.getLsbD_extractLsb', BitVec.getLsbD_ofNat]
  by_cases hi : i < len
  · simp [show k + i < 21 by omega]
  · simp [hi]

/-- The lead byte: marker bits over all bits of the code from `k` on. -/
theorem ofNat_lead (m : Nat) {code k len : Nat} (hc : code < 2 ^ (k + len)) (h : k + len ≤ 21) :
    BitVec.ofNat 8 (m ||| code >>> k) =
      BitVec.ofNat 8 m ||| ((BitVec.ofNat 21 code).extractLsb' k len).setWidth 8 := by
  have hlt : code >>> k < 2 ^ len := by
    rw [Nat.shiftRight_eq_div_pow]
    exact Nat.div_lt_of_lt_mul (Nat.pow_add 2 k len ▸ hc)
  rw [← ofNat_field code k h, Nat.mod_eq_of_lt hlt, BitVec.ofNat_or]

/-- A byte that continues a character: the marker `10` over six bits of the code. -/
theorem ofNat_continuation (code k : Nat) (h : k + 6 ≤ 21) :
    BitVec.ofNat 8 (0x80 ||| code >>> k % 64) =
      0x80#8 ||| ((BitVec.ofNat 21 code).extractLsb' k 6).setWidth 8 := by
  rw [BitVec.ofNat_or]
  exact congrArg _ (ofNat_field code k h)

theorem ofNat_lastContinuation (code : Nat) :
    BitVec.ofNat 8 (0x80 ||| code % 64) =
      0x80#8 ||| ((BitVec.ofNat 21 code).extractLsb' 0 6).setWidth 8 :=
  ofNat_continuation code 0 (by decide)

section utf8
variable {code : Nat}

theorem utf8_one (h : code ≤ 0x7F) : utf8 code = [(BitVec.ofNat 21 code).setWidth 8] := by
  rw [utf8, if_pos h, setWidth_eq_ofNat, BitVec.toNat_ofNat, Nat.mod_eq_of_lt (by omega)]

theorem utf8_two (hlo : 0x80 ≤ code) (hhi : code ≤ 0x7FF) :
    utf8 code =
      [0xC0#8 ||| ((BitVec.ofNat 21 code).extractLsb' 6 5).setWidth 8,
        0x80#8 ||| ((BitVec.ofNat 21 code).extractLsb' 0 6).setWidth 8] := by
  rw [utf8, if_neg (by omega), if_pos hhi, ofNat_lead 0xC0 (len := 5) (by omega) (by decide),
    ofNat_lastContinuation]

theorem utf8_three (hlo : 0x800 ≤ code) (hhi : code ≤ 0xFFFF) :
    utf8 code =
      [0xE0#8 ||| ((BitVec.ofNat 21 code).extractLsb' 12 4).setWidth 8,
        0x80#8 ||| ((BitVec.ofNat 21 code).extractLsb' 6 6).setWidth 8,
        0x80#8 ||| ((BitVec.ofNat 21 code).extractLsb' 0 6).setWidth 8] := by
  rw [utf8, if_neg (by omega), if_neg (by omega), if_pos hhi, ofNat_lead 0xE0 (len := 4) (by omega) (by decide),
    ofNat_continuation code 6 (by decide), ofNat_lastContinuation]

theorem utf8_four (hlo : 0x10000 ≤ code) (hhi : code ≤ 0x10FFFF) :
    utf8 code =
      [0xF0#8 ||| ((BitVec.ofNat 21 code).extractLsb' 18 3).setWidth 8,
        0x80#8 ||| ((BitVec.ofNat 21 code).extractLsb' 12 6).setWidth 8,
        0x80#8 ||| ((BitVec.ofNat 21 code).extractLsb' 6 6).setWidth 8,
        0x80#8 ||| ((BitVec.ofNat 21 code).extractLsb' 0 6).setWidth 8] := by
  rw [utf8, if_neg (by omega), if_neg (by omega), if_neg (by omega),
    ofNat_lead 0xF0 (len := 3) (by omega) (by decide), ofNat_continuation code 12 (by decide),
    ofNat_continuation code 6 (by decide), ofNat_lastContinuation]

theorem utf8Chars_utf8 (h : code ≤ 0x10FFFF) : utf8Chars (utf8 code) = [utf8 code] := by
  have hone := utf8Chars_flatMap (List.forall_mem_singleton.mpr h)
  rwa [List.flatMap_singleton, List.map_singleton] at hone

end utf8

/-- Settles O46. -/
theorem utf8OfScalarValues : Obligations.Utf8OfScalarValues := by
  unfold Obligations.Utf8OfScalarValues
  intro code hscalar c
  have hle := scalarValue_le hscalar
  have hchars := utf8Chars_utf8 hle
  have hcount : utf8Count (utf8 code) = 1 := by rw [utf8Count, hchars, List.length_singleton]
  exact ⟨utf8_one, utf8_two, utf8_three, fun hlo => utf8_four hlo hle, length_utf8 code, hcount, hchars,
    utf8Value_utf8 hle⟩

/-! ## The width of an offset-table entry (R224) -/

theorem two_pow_le_of_lt_bitlen {v n : Nat} (h : n < bitlen v) : 2 ^ n ≤ v :=
  Nat.le_of_not_lt fun hlt => Nat.not_le.mpr h (bitlen_le hlt)

/-- An entry of more than one byte is needed: the largest offset has a bit above the bytes before its last. -/
theorem offsetBytes_least {align : Bool} {gs : List Glyph} {fh b : Nat} (h : 1 < offsetBytes align gs fh b) :
    256 ^ (offsetBytes align gs fh b - 1) ≤ maxOffset align gs fh b := by
  have hbits : 8 * (offsetBytes align gs fh b - 1) < bitlen (maxOffset align gs fh b) := by
    rw [offsetBytes, ceilDiv] at *
    omega
  calc 256 ^ (offsetBytes align gs fh b - 1)
      = 2 ^ (8 * (offsetBytes align gs fh b - 1)) := (Nat.pow_mul 2 8 _).symm
    _ ≤ maxOffset align gs fh b := two_pow_le_of_lt_bitlen hbits

/-- Settles O47. -/
theorem offsetEntryWidthIsLeast : Obligations.OffsetEntryWidthIsLeast := by
  unfold Obligations.OffsetEntryWidthIsLeast
  intro align gs fh b hbits ob
  exact ⟨Nat.le_max_left 1 _, offsetBytes_le hbits, fun i => glyphOffset_fits align gs fh b, offsetBytes_least⟩

/-! ## The largest width (R221) -/

@[simp] theorem maxWidth_nil : maxWidth [] = 0 := rfl

theorem maxWidth_is_largest {gs : List Glyph} (h : gs ≠ []) :
    (∃ g ∈ gs, g.width.toNat = maxWidth gs) ∧ ∀ g ∈ gs, g.width.toNat ≤ maxWidth gs := by
  have hfold : maxWidth gs = (gs.map fun g => g.width.toNat).max?.getD 0 := by
    rw [maxWidth, List.foldl_max, Nat.zero_max]
  cases hmax : (gs.map fun g => g.width.toNat).max? with
  | none => exact absurd (List.map_eq_nil_iff.mp (List.max?_eq_none_iff.mp hmax)) h
  | some m =>
    obtain ⟨hmem, hle⟩ := List.max?_eq_some_iff.mp hmax
    rw [hfold, hmax, Option.getD_some]
    exact ⟨List.mem_map.mp hmem, fun g hg => hle _ (List.mem_map_of_mem hg)⟩

theorem exists_width_eq_maxWidth {gs : List Glyph} (h : gs ≠ []) : ∃ g ∈ gs, g.width.toNat = maxWidth gs :=
  have ⟨hex, _⟩ := maxWidth_is_largest h
  hex

theorem width_le_maxWidth {gs : List Glyph} {g : Glyph} (hg : g ∈ gs) : g.width.toNat ≤ maxWidth gs :=
  have ⟨_, hle⟩ := maxWidth_is_largest (List.ne_nil_of_mem hg)
  hle g hg

theorem maxWidth_lt (gs : List Glyph) : maxWidth gs < 65536 := by
  by_cases h : gs = []
  · rw [h, maxWidth_nil]
    decide
  · obtain ⟨g, -, hg⟩ := exists_width_eq_maxWidth h
    exact hg ▸ g.width.isLt

/-! ## The layout of the FONT container (R217, R227) -/

theorem length_glyphSection (align : Bool) {fh : Nat} {gs : List Glyph} (b : Nat) (h : ∀ g ∈ gs, GlyphDone fh g) :
    (glyphSection align gs fh b).length = (sectionBits align gs fh b + 7) / 8 := by
  rw [glyphSection, length_toBytes, length_glyphSlots align b h]
  rfl

theorem fontContainer_magic (cfg : Params) (gs : List Glyph) (fh b : Nat) :
    (fontContainer cfg gs fh b).take 4 = cfg.fontMagic.toList := by
  have hmagic : cfg.fontMagic.toList <+: (fontContainer cfg gs fh b).drop 0 := fontBlock_prefix (i := 0) rfl rfl
  have htake := List.prefix_iff_eq_take.mp hmagic
  rw [Vector.length_toList, List.drop_zero] at htake
  exact htake.symm

theorem fontContainer_maxWidth (cfg : Params) (gs : List Glyph) (fh b : Nat) :
    fieldAt (fontContainer cfg gs fh b) 7 2 = maxWidth gs :=
  fieldAt_of_prefix (fontBlock_prefix (i := 3) rfl (by simp [fontBlocks])) (maxWidth_lt gs)

/-- Settles O48. -/
theorem fontContainerLayout : Obligations.FontContainerLayout := by
  unfold Obligations.FontContainerLayout
  intro cfg gs fh b hfh hb hmap hbits hgs c ob
  have hdone : ∀ g ∈ gs, GlyphDone fh g := fun g hg => have ⟨_, h⟩ := hgs g hg; h
  have hlength : c.length = 12 + mapLen gs + (widthEntryBytes cfg.widthEntry + ob) * gs.length
      + (sectionBits cfg.glyphByteAlign gs fh b + 7) / 8 := by
    rw [length_fontContainer, length_glyphSection _ b hdone]
  have hwidth : fieldAt c 7 2 = maxWidth gs := fontContainer_maxWidth cfg gs fh b
  rw [hwidth]
  exact ⟨hlength, fontContainer_magic cfg gs fh b, fontContainer_bpp hb, fontContainer_height hfh, rfl,
    fun g => width_le_maxWidth, exists_width_eq_maxWidth, fun hnil => hnil ▸ maxWidth_nil,
    fontContainer_offsetBytes hbits, fontContainer_mapLen hmap, fontContainer_map hmap⟩

end Sys2Proof.Proofs.Serializer
end

section
/-! PROOFS. The control commands (45_control.md R260 to R264): where each is performed, and what it leaves there. -/

namespace Sys2Proof.Proofs.Control

open Sys2Proof.Machine Sys2Proof.Proofs.Dispatch

/-! ## Where they are performed (40_dispatch.md R121, R123) -/

theorem performed_in_every_mode {op : Opcode} (hop : op = .nop ∨ op = .query ∨ op = .abort) (m : Mode) :
    legality op m = .perform := by
  rcases hop with rfl | rfl | rfl <;> rfl

theorem size_commands_performed {op : Opcode} {m : Mode} (hop : op = .setW ∨ op = .setH) (hm : m ≠ .error) :
    legality op m = .perform := by
  cases m with
  | error => exact absurd rfl hm
  | _ => rcases hop with rfl | rfl <;> rfl

/-! ## NOP, SET_W and SET_H (R260 to R262) -/

/-- Settles O22. -/
theorem nopDoesNothing : Obligations.NopDoesNothing :=
  fun s => exec_ok (performed_in_every_mode (.inl rfl) s.mode) rfl

theorem exec_setW {s : State} (v : BitVec 16) (hm : s.mode ≠ .error) : exec (.setW v) s = .next { s with w := v } :=
  exec_ok (size_commands_performed (.inl rfl) hm) rfl

theorem exec_setH {s : State} (v : BitVec 16) (hm : s.mode ≠ .error) : exec (.setH v) s = .next { s with h := v } :=
  exec_ok (size_commands_performed (.inr rfl) hm) rfl

/-- Settles O23. -/
theorem setCommandsWriteOneRegister : Obligations.SetCommandsWriteOneRegister := by
  unfold Obligations.SetCommandsWriteOneRegister
  intro s v
  refine ⟨fun hm => ?performed, fun hm => ?discarded⟩
  case performed => exact ⟨exec_setW v hm, exec_setH v hm⟩
  case discarded => exact ⟨exec_discarded_in_error hm nofun nofun nofun, exec_discarded_in_error hm nofun nofun nofun⟩

/-! ## QUERY and ABORT (R263, R264) -/

theorem exec_query (s : State) : exec .query s = .next (respond 0xF0#8 s.errCode (statusPayload s) s) :=
  exec_ok (performed_in_every_mode (.inr (.inl rfl)) s.mode) rfl

/-- Settles O24: the payload's last three bits are the mode's number. -/
theorem queryAnswersStatus : Obligations.QueryAnswersStatus := by
  unfold Obligations.QueryAnswersStatus
  intro s number
  have hnumber : modeCode s.mode = number := by
    unfold number
    cases s.mode <;> rfl
  rw [exec_query, statusPayload, hnumber]
  rfl

theorem exec_abort (s : State) : exec .abort s = .next (respond 0xFF#8 0#8 0#16 (leaveError s)) :=
  exec_ok (performed_in_every_mode (.inr (.inr rfl)) s.mode) rfl

theorem abort_response : responseWord 0xFF#8 0#8 0#16 = 0xFF000000#32 := by decide

/-- Settles O25. -/
theorem abortReturnsToIdle : Obligations.AbortReturnsToIdle := by
  unfold Obligations.AbortReturnsToIdle
  intro s
  rw [exec_abort, respond, abort_response]
  rfl

end Sys2Proof.Proofs.Control
end

section
/-! PROOFS. Errors and waiting (60_exceptions.md R283, R286, R294): what error entry does, how ERROR is left, and that
without an event the block keeps everything. -/

namespace Sys2Proof.Proofs.Exceptions

open Sys2Proof.Machine Sys2Proof.Proofs.State Sys2Proof.Proofs.Encoding Sys2Proof.Proofs.Dispatch Sys2Proof.Proofs.Control

/-! ## Waiting (R294) -/

theorem step_waiting {s : State} (hn : nextEvent s.rstN s.inbox = none) : step s = .next s := by
  simp only [step, fetch, hn]

/-- Settles O10: an empty list of events has no next one, and in reset neither has a list of words alone. -/
theorem waitingKeepsEverything : Obligations.WaitingKeepsEverything := by
  unfold Obligations.WaitingKeepsEverything
  intro s
  refine ⟨fun hi => step_waiting ?_, fun ws hr hi => step_waiting ?_⟩
  · rw [hi, nextEvent_nil]
  · rw [hr, hi, nextEvent_words]

/-! ## Error entry (R283) -/

/-- Settles O18. -/
theorem errorEntryEffect : Obligations.ErrorEntryEffect := by
  unfold Obligations.ErrorEntryEffect
  intro e opc s
  obtain ⟨-, -, -, -, -, herrO⟩ := levelsShowState (raiseError e opc s)
  exact ⟨raiseError_eq_errorEntry e opc s, herrO.mpr (raiseError_mode e opc s)⟩

/-! ## The ways out of ERROR (R286) -/

/-- The next event is the first one out of reset, and in reset only words stand before it. -/
theorem inbox_of_nextEvent {b : Bool} {l rest : List HostEvent} {e : HostEvent} (h : nextEvent b l = some (e, rest)) :
    ∃ (ws : List Word) (rest' : List HostEvent), l = ws.map .command ++ e :: rest' ∧ (b = true → ws = []) := by
  cases b with
  | true =>
    cases l with
    | nil => cases h
    | cons x xs =>
      rw [nextEvent_true] at h
      cases h
      exact ⟨[], rest, rfl, fun _ => rfl⟩
  | false =>
    rcases events_cases l with ⟨ws, rfl⟩ | ⟨ws, x, xs, hx, rfl⟩
    · rw [nextEvent_words] at h
      cases h
    · rw [nextEvent_held ws x xs hx] at h
      cases h
      exact ⟨ws, xs, rfl, nofun⟩

theorem takeOutByte_mode (s : State) : (takeOutByte s).mode = s.mode := by
  rcases takeOutByte_cases s with ⟨-, -, h⟩ | ⟨-, h⟩ <;> rw [h]

theorem takeResponseWord_mode (s : State) : (takeResponseWord s).mode = s.mode := by
  rcases takeResponseWord_cases s with ⟨-, -, h⟩ | ⟨-, h⟩ <;> rw [h]

/-- In ERROR a word that is not ABORT's leaves STATE as it is. -/
theorem stepWord_stays_in_error {w : Word} {s t : State} (hm : s.mode = .error) (habort : w ≠ encode .abort)
    (h : stepWord w s = .next t) : t.mode = .error := by
  by_cases hnop : w = encode .nop
  · rw [hnop, stepWord_encode, nopDoesNothing] at h
    cases h
    exact hm
  by_cases hquery : w = encode .query
  · rw [hquery, stepWord_encode, exec_query] at h
    cases h
    exact hm
  rw [stepWord_discarded_in_error hm hnop hquery habort] at h
  cases h
  exact hm

/-- Settles O21: of the things a step can do in ERROR, ABORT and the assertion of reset alone write STATE. -/
theorem errorIsLeftOnlyByAbortOrReset : Obligations.ErrorIsLeftOnlyByAbortOrReset := by
  unfold Obligations.ErrorIsLeftOnlyByAbortOrReset
  intro s t hm h ht
  rcases step_cases s with ⟨-, hs⟩ | ⟨w, rest, hr, hi, hs⟩ | ⟨rest, -, hs⟩ | ⟨rest, -, hs⟩ | ⟨rest, hn, hs⟩ |
    ⟨rest, -, hs⟩ <;> rw [hs] at h
  case inr.inl =>
    by_cases habort : w = encode .abort
    · subst habort
      rw [stepWord_encode, exec_abort] at h
      cases h
      exact ⟨rfl, rfl, rfl, .inl ⟨rest, hr, hi, rfl, rfl⟩⟩
    · exact absurd (stepWord_stays_in_error (s := { s with inbox := rest, pos := s.pos + 1 }) hm habort h) ht
  all_goals cases h
  · exact absurd hm ht
  · rw [takeOutByte_mode] at ht
    exact absurd hm ht
  · rw [takeResponseWord_mode] at ht
    exact absurd hm ht
  · exact ⟨rfl, rfl, rfl, .inr (inbox_of_nextEvent hn)⟩
  · exact absurd hm ht

end Sys2Proof.Proofs.Exceptions
end

section
/-! PROOFS. Reset (70_reset_and_hazards.md R320): what the block does while it is held, and how the release starts a run. -/

namespace Sys2Proof.Proofs.Reset

open Sys2Proof.Machine Sys2Proof.Safety Sys2Proof.Proofs.State

/-! ## While reset is held (R320) -/

/-- The block held at its reset values, with `events` to come. -/
def heldBlock (cfg : Params) (events : List HostEvent) : State :=
  { State.resetWith cfg with rstN := false, inbox := events }

/-- It is what asserting reset leaves. -/
theorem resetBlock_eq_heldBlock (s : State) : resetBlock s = heldBlock s.cfg s.inbox := rfl

/-- In reset a port offers nothing, whatever the streams hold. -/
theorem ports_closed_in_reset {s : State} (hr : s.rstN = false) :
    cmdReady s = false ∧ outOffered s = none ∧ rspOffered s = none := by
  simp [cmdReady, outOffered, rspOffered, hr]

theorem takeOutByte_in_reset {s : State} (hr : s.rstN = false) : takeOutByte s = s := by
  obtain ⟨-, hout, -⟩ := ports_closed_in_reset hr
  simp [takeOutByte, hout]

theorem takeResponseWord_in_reset {s : State} (hr : s.rstN = false) : takeResponseWord s = s := by
  obtain ⟨-, -, hrsp⟩ := ports_closed_in_reset hr
  simp [takeResponseWord, hrsp]

theorem wordOffered_eq_none {e : HostEvent} (he : ∀ w, e ≠ .command w) : wordOffered e = none := by
  cases e with
  | command w => exact absurd rfl (he w)
  | _ => rfl

/-- The event that happens in reset is no word, so every word offered stays offered. -/
theorem wordsOffered_of_nextEvent {l rest : List HostEvent} {e : HostEvent} (h : nextEvent false l = some (e, rest)) :
    wordsOffered rest = wordsOffered l := by
  rcases events_cases l with ⟨ws, rfl⟩ | ⟨ws, x, xs, hx, rfl⟩
  · rw [nextEvent_words] at h
    cases h
  · rw [nextEvent_held ws x xs hx] at h
    cases h
    simp [wordsOffered, wordOffered_eq_none hx]

/-- The step of a held block writes the level of `rst_n` and the events alone. -/
theorem step_heldBlock (cfg : Params) (events : List HostEvent) :
    ∃ (level : Bool) (events' : List HostEvent),
      step (heldBlock cfg events) = .next { heldBlock cfg events' with rstN := level } ∧
      wordsOffered events' = wordsOffered events := by
  rcases step_cases (heldBlock cfg events) with ⟨-, h⟩ | ⟨-, -, hr, -, -⟩ | ⟨rest, hn, h⟩ | ⟨rest, hn, h⟩ |
    ⟨rest, hn, h⟩ | ⟨rest, hn, h⟩
  · exact ⟨false, events, h, rfl⟩
  · cases hr
  · rw [takeOutByte_in_reset rfl] at h
    exact ⟨false, rest, h, wordsOffered_of_nextEvent hn⟩
  · rw [takeResponseWord_in_reset rfl] at h
    exact ⟨false, rest, h, wordsOffered_of_nextEvent hn⟩
  · rw [resetBlock_eq_heldBlock] at h
    exact ⟨false, rest, h, wordsOffered_of_nextEvent hn⟩
  · exact ⟨true, rest, h, wordsOffered_of_nextEvent hn⟩

/-- Settles O14. -/
theorem resetHoldsTheBlock : Obligations.ResetHoldsTheBlock := by
  unfold Obligations.ResetHoldsTheBlock
  exact ⟨fun _ => ports_closed_in_reset, step_heldBlock⟩

/-! ## The release (R320) -/

theorem step_release {s : State} {ws : List Word} {rest : List HostEvent} (hr : s.rstN = false)
    (hi : s.inbox = ws.map .command ++ .releaseReset :: rest) :
    step s = .next { s with rstN := true, inbox := ws.map .command ++ rest } := by
  have hn : nextEvent s.rstN s.inbox = some (.releaseReset, ws.map .command ++ rest) := by
    rw [hr, hi]
    exact nextEvent_held ws _ rest (by simp)
  exact step_handled hn rfl

/-- Settles O15: after the release the words that waited stand first, so the step of the first of them is the next. -/
theorem releaseStartsRun : Obligations.ReleaseStartsRun := by
  unfold Obligations.ReleaseStartsRun
  intro s ws rest hr hi
  refine ⟨_, step_release hr hi, rfl, rfl, fun w ws' hws => ?_⟩
  subst hws
  exact step_command rfl rfl

end Sys2Proof.Proofs.Reset
end
